-- ==== Sys2Proof/Word.lean ====
section
/-!
DEFINITION. The word types of the core (10_state.md, 30_encoding.md): bytes of PHYS and of the links, the
host command word, the host response word and the stored colour channel.
-/

namespace Sys2Proof

/-- A byte of PHYS, of a frame or of a command (R10, R52). -/
abbrev Byte := BitVec 8

/-- A host command word, 64 bits (R81). -/
abbrev Hcw := BitVec 64

/-- A host response word, 40 bits (R89). -/
abbrev Hrw := BitVec 40

/-- A stored colour channel, 6 bits (R22). -/
abbrev Channel := BitVec 6

/-- A brightness code, 6 bits (R28). -/
abbrev Brightness := BitVec 6

/-- A physical offset, 0 to 447 (R31, R34): no other offset exists, so none can be written down. -/
abbrev PhysAddr := Fin 448

/-- A storage index or a canonical display index, 0 to 118 (R34). -/
abbrev PixelIndex := Fin 119

end Sys2Proof
end

