-- ==== Sys2Proof/Syntax.lean ====
section
/-!
DEFINITION. The instructions of the core (R2, R13): the 18 host operations of R86 and the 8 wire commands of
R96, one constructor for each row of spec/opcode_table.json; and what the core is handed to run.
-/

namespace Sys2Proof

/-- One instruction. The fields are the operand fields of R82 to R88 and of R197 to R204. -/
inductive Instr where
  /-- SET_PIXEL x, y, r, g, b (R162). -/
  | setPixel (x y r g b : Byte)
  /-- GET_PIXEL x, y (R163). -/
  | getPixel (x y : Byte)
  /-- CLEAR_PIXEL x, y (R164). -/
  | clearPixel (x y : Byte)
  /-- SET_ALL r, g, b (R165). -/
  | setAll (r g b : Byte)
  /-- CLEAR (R166). -/
  | clear
  /-- GET_OFFSET x, y (R161). -/
  | getOffset (x y : Byte)
  /-- SET_ROTATION deg (R130). -/
  | setRotation (deg : BitVec 16)
  /-- GET_ROTATION (R131). -/
  | getRotation
  /-- FLIP_X (R132). -/
  | flipX
  /-- FLIP_Y (R133). -/
  | flipY
  /-- SET_BRIGHTNESS code (R220). -/
  | setBrightness (code : Brightness)
  /-- GET_BRIGHTNESS (R221). -/
  | getBrightness
  /-- RESOLVE x, y (R129). -/
  | resolve (x y : Byte)
  /-- LOOKUP c (R152). -/
  | lookup (c : BitVec 16)
  /-- RENDER (R167). -/
  | render
  /-- FRAME (R195): the command bytes; no payload (PAY = 0) or a payload of the given length on each link. -/
  | frame (cmd : List Byte) (payload : Option Byte)
  /-- SHOW (R223). -/
  | showDisplay
  /-- INIT (R224). -/
  | init
  /-- Wire command SOFT_RESET (R197). -/
  | softReset
  /-- Wire command GLOBAL_BRIGHTNESS d (R198). Any byte d: codes above 63 are the model's choice (assumption 19). -/
  | globalBrightness (d : Byte)
  /-- Wire command COM_PIN_CTRL c (R199). -/
  | comPinCtrl (c : Byte)
  /-- Wire command ROW_PIN_CTRL a, b, c, d (R200). -/
  | rowPinCtrl (a b c d : Byte)
  /-- Wire command WRITE_DISPLAY a (R201). -/
  | writeDisplay (a : Byte)
  /-- Wire command READ_DISPLAY (R202). -/
  | readDisplay
  /-- Wire command SYSTEM_CTRL s (R203). -/
  | systemCtrl (s : Byte)
  /-- Wire command SCROLL_CTRL s (R204). -/
  | scrollCtrl (s : Byte)
  deriving DecidableEq, Repr

/-- What the core is handed to run: a host command word on the host port (R50, R81), or the bytes of one wire
command at the framer's command input (R190; assumption 5). -/
inductive Request where
  | word (w : Hcw)
  | wire (bytes : List Byte)
  deriving DecidableEq, Repr

end Sys2Proof
end

