-- ==== Sys2Proof/WellFormed.lean ====
section
/-!
DEFINITION. Which instruction terms have an encoding: the only bound no field's type carries is HLEN of R88.
-/

namespace Sys2Proof

/-- FRAME has 1 to HDR_MAX = 5 command bytes (R88, R9). Every other operand is bounded by its type. -/
def Instr.WellFormed (i : Instr) : Bool :=
  match i with
  | .frame cmd _ => decide (1 ≤ cmd.length) && decide (cmd.length ≤ 5)
  | .setPixel _ _ _ _ _ => true
  | .getPixel _ _ => true
  | .clearPixel _ _ => true
  | .setAll _ _ _ => true
  | .clear => true
  | .getOffset _ _ => true
  | .setRotation _ => true
  | .getRotation => true
  | .flipX => true
  | .flipY => true
  | .setBrightness _ => true
  | .getBrightness => true
  | .resolve _ _ => true
  | .lookup _ => true
  | .render => true
  | .showDisplay => true
  | .init => true
  | .softReset => true
  | .globalBrightness _ => true
  | .comPinCtrl _ => true
  | .rowPinCtrl _ _ _ _ => true
  | .writeDisplay _ => true
  | .readDisplay => true
  | .systemCtrl _ => true
  | .scrollCtrl _ => true

end Sys2Proof
end

