-- ==== Sys2Proof/Decode.lean ====
section
/-!
DEFINITION. The decoder, total on every host command word and every byte sequence, rejecting by name (R81 to
R101); and after it the encoder, written from the same tables.
-/

namespace Sys2Proof

/-- Why a word or a byte sequence is no instruction. -/
inductive DecodeError where
  /-- OP is not in the table of R86 (R99). -/
  | unknownOpcode
  /-- A must-be-zero field of the format is not 0 (R99). -/
  | reservedBits
  /-- Format F: HLEN is not 1 to 5 (R99). -/
  | headerLength
  /-- Format F: a header field Hj with j ≥ HLEN is not 0 (R99). -/
  | strayHeaderByte
  /-- Format F: PAY = 0 and LEN is not 0 (R99). -/
  | lengthWithoutPayload
  /-- A wire command without its opcode byte (R95). -/
  | emptyWireCommand
  /-- Byte 0 is not one of the eight wire opcodes (R96, R100). -/
  | unknownWireOpcode
  /-- A known wire opcode with another number of data bytes than R96 gives. -/
  | wireDataCount
  deriving DecidableEq, Repr

/-! ### The opcode table of the host operations (R86) -/

/-- The 18 host operations by name. -/
inductive HostOp where
  | setPixel | getPixel | clearPixel | setAll | clear | getOffset
  | setRotation | getRotation | flipX | flipY | setBrightness | getBrightness
  | resolve | lookup | render | frame | showDisplay | init
  deriving DecidableEq, Repr

/-- The operation code OP of each host operation (R86). -/
def HostOp.code : HostOp → Nat
  | .setPixel => 0x01
  | .getPixel => 0x02
  | .clearPixel => 0x03
  | .setAll => 0x04
  | .clear => 0x05
  | .getOffset => 0x06
  | .setRotation => 0x08
  | .getRotation => 0x09
  | .flipX => 0x0A
  | .flipY => 0x0B
  | .setBrightness => 0x0C
  | .getBrightness => 0x0D
  | .resolve => 0x10
  | .lookup => 0x11
  | .render => 0x18
  | .frame => 0x19
  | .showDisplay => 0x1A
  | .init => 0x1B

/-- The rows of R86 in the table's order. -/
def HostOp.all : List HostOp :=
  [.setPixel, .getPixel, .clearPixel, .setAll, .clear, .getOffset,
   .setRotation, .getRotation, .flipX, .flipY, .setBrightness, .getBrightness,
   .resolve, .lookup, .render, .frame, .showDisplay, .init]

/-- The operation with a given code; none for "every other value of OP" (R86). -/
def HostOp.ofCode (c : Nat) : Option HostOp := HostOp.all.find? fun op => op.code == c

/-- The must-be-zero fields of each operation's format, as (lowest bit, width): formats C, P, A, N, I, F
(R82 to R88), with IMM[15:6] of SET_BRIGHTNESS (R94). -/
def HostOp.reserved : HostOp → List (Nat × Nat)
  | .setPixel => [(0, 16)]
  | .getPixel => [(0, 40)]
  | .clearPixel => [(0, 40)]
  | .setAll => [(40, 16), (0, 16)]
  | .clear => [(0, 56)]
  | .getOffset => [(0, 40)]
  | .setRotation => [(16, 40)]
  | .getRotation => [(0, 56)]
  | .flipX => [(0, 56)]
  | .flipY => [(0, 56)]
  | .setBrightness => [(16, 40), (6, 10)]
  | .getBrightness => [(0, 56)]
  | .resolve => [(0, 40)]
  | .lookup => [(16, 40)]
  | .render => [(0, 56)]
  | .frame => [(48, 4)]
  | .showDisplay => [(0, 56)]
  | .init => [(0, 56)]

/-! ### Fields of a host command word -/

/-- The n bits of w from bit lo up (R10: bits are numbered from 0 at the least significant bit). -/
def field (w : Hcw) (lo n : Nat) : BitVec n := w.extractLsb' lo n

/-- OP, bits [63:56] (R81). -/
def opField (w : Hcw) : Nat := (field w 56 8).toNat

/-- Every field of the list reads 0. -/
def fieldsZero (w : Hcw) (fs : List (Nat × Nat)) : Bool := fs.all fun f => (field w f.1 f.2).toNat == 0

/-- H0 to H4 of format F (R88). -/
def headerBytes (w : Hcw) : List Byte := [field w 32 8, field w 24 8, field w 16 8, field w 8 8, field w 0 8]

/-- Format F (R88) with its further conditions of R99. -/
def decodeFrame (w : Hcw) : Except DecodeError Instr :=
  let hlen := (field w 53 3).toNat
  let pay := (field w 52 1).toNat
  let len := field w 40 8
  if hlen < 1 ∨ 5 < hlen then .error .headerLength
  else if ((headerBytes w).drop hlen).any (fun h => h != 0#8) then .error .strayHeaderByte
  else if pay = 0 then
    if len = 0#8 then .ok (.frame ((headerBytes w).take hlen) none) else .error .lengthWithoutPayload
  else .ok (.frame ((headerBytes w).take hlen) (some len))

/-- The operands of an operation whose must-be-zero fields are 0 (R82 to R88). -/
def decodeOperands (op : HostOp) (w : Hcw) : Except DecodeError Instr :=
  match op with
  | .setPixel => .ok (.setPixel (field w 48 8) (field w 40 8) (field w 32 8) (field w 24 8) (field w 16 8))
  | .getPixel => .ok (.getPixel (field w 48 8) (field w 40 8))
  | .clearPixel => .ok (.clearPixel (field w 48 8) (field w 40 8))
  | .setAll => .ok (.setAll (field w 32 8) (field w 24 8) (field w 16 8))
  | .clear => .ok .clear
  | .getOffset => .ok (.getOffset (field w 48 8) (field w 40 8))
  | .setRotation => .ok (.setRotation (field w 0 16))
  | .getRotation => .ok .getRotation
  | .flipX => .ok .flipX
  | .flipY => .ok .flipY
  | .setBrightness => .ok (.setBrightness (field w 0 6))
  | .getBrightness => .ok .getBrightness
  | .resolve => .ok (.resolve (field w 48 8) (field w 40 8))
  | .lookup => .ok (.lookup (field w 0 16))
  | .render => .ok .render
  | .frame => decodeFrame w
  | .showDisplay => .ok .showDisplay
  | .init => .ok .init

/-- A host command word (R81, R99): the operation by its code, its must-be-zero fields, its operands. -/
def decodeWord (w : Hcw) : Except DecodeError Instr :=
  match HostOp.ofCode (opField w) with
  | none => .error .unknownOpcode
  | some op => if fieldsZero w op.reserved then decodeOperands op w else .error .reservedBits

/-! ### The wire commands (R95, R96) -/

/-- The eight wire commands by name. -/
inductive WireOp where
  | softReset | globalBrightness | comPinCtrl | rowPinCtrl
  | writeDisplay | readDisplay | systemCtrl | scrollCtrl
  deriving DecidableEq, Repr

/-- The wire opcode bytes ("wire format, must match exactly", R96). -/
def WireOp.code : WireOp → Byte
  | .softReset => 0xCC#8
  | .globalBrightness => 0x37#8
  | .comPinCtrl => 0x41#8
  | .rowPinCtrl => 0x42#8
  | .writeDisplay => 0x80#8
  | .readDisplay => 0x81#8
  | .systemCtrl => 0x35#8
  | .scrollCtrl => 0x20#8

/-- The rows of R96 in the table's order. -/
def WireOp.all : List WireOp :=
  [.softReset, .globalBrightness, .comPinCtrl, .rowPinCtrl, .writeDisplay, .readDisplay, .systemCtrl, .scrollCtrl]

/-- The wire command with a given opcode byte. -/
def WireOp.ofCode (c : Byte) : Option WireOp := WireOp.all.find? fun op => op.code == c

/-- The data bytes after the opcode: 0, 1 or 4 of them (R96, R97; assumption 11; READ_DISPLAY's 0 is assumption 15). The data
byte of GLOBAL_BRIGHTNESS, for which R96 and R198 name the codes 0 to 63, may be any byte here: DESIGN CHOICE, unsafe
(assumption 19). -/
def decodeWireData (op : WireOp) (data : List Byte) : Except DecodeError Instr :=
  match op, data with
  | .softReset, [] => .ok .softReset
  | .globalBrightness, [d] => .ok (.globalBrightness d)
  | .comPinCtrl, [c] => .ok (.comPinCtrl c)
  | .rowPinCtrl, [a, b, c, d] => .ok (.rowPinCtrl a b c d)
  | .writeDisplay, [a] => .ok (.writeDisplay a)
  | .readDisplay, [] => .ok .readDisplay
  | .systemCtrl, [s] => .ok (.systemCtrl s)
  | .scrollCtrl, [s] => .ok (.scrollCtrl s)
  | _, _ => .error .wireDataCount

/-- The command bytes of a wire command, first byte first (R95). -/
def decodeWire (bytes : List Byte) : Except DecodeError Instr :=
  match bytes with
  | [] => .error .emptyWireCommand
  | c :: data =>
    match WireOp.ofCode c with
    | none => .error .unknownWireOpcode
    | some op => decodeWireData op data

/-- The decoder: total on everything the core can be handed. -/
def decode : Request → Except DecodeError Instr
  | .word w => decodeWord w
  | .wire bytes => decodeWire bytes

/-! ### The encoder -/

/-- Format N (R82). -/
def packN (op : HostOp) : Hcw := BitVec.ofNat 64 (op.code * 2 ^ 56)

/-- Format P (R83). -/
def packP (op : HostOp) (x y : Byte) : Hcw :=
  BitVec.ofNat 64 (op.code * 2 ^ 56 + x.toNat * 2 ^ 48 + y.toNat * 2 ^ 40)

/-- Format C (R84). -/
def packC (op : HostOp) (x y r g b : Byte) : Hcw :=
  BitVec.ofNat 64 (op.code * 2 ^ 56 + x.toNat * 2 ^ 48 + y.toNat * 2 ^ 40 +
    r.toNat * 2 ^ 32 + g.toNat * 2 ^ 24 + b.toNat * 2 ^ 16)

/-- Format A (R85). -/
def packA (op : HostOp) (r g b : Byte) : Hcw :=
  BitVec.ofNat 64 (op.code * 2 ^ 56 + r.toNat * 2 ^ 32 + g.toNat * 2 ^ 24 + b.toNat * 2 ^ 16)

/-- Format I (R87). -/
def packI (op : HostOp) (imm : Nat) : Hcw := BitVec.ofNat 64 (op.code * 2 ^ 56 + imm)

/-- Header field Hj of format F: command byte j, 0 where there is none (R88). -/
def headerField (cmd : List Byte) (j : Nat) : Nat := (cmd.getD j 0#8).toNat

/-- Format F (R88). -/
def packF (op : HostOp) (cmd : List Byte) (payload : Option Byte) : Hcw :=
  BitVec.ofNat 64 (op.code * 2 ^ 56 + cmd.length * 2 ^ 53 + (if payload.isSome then 1 else 0) * 2 ^ 52 +
    (payload.getD 0#8).toNat * 2 ^ 40 + headerField cmd 0 * 2 ^ 32 + headerField cmd 1 * 2 ^ 24 +
    headerField cmd 2 * 2 ^ 16 + headerField cmd 3 * 2 ^ 8 + headerField cmd 4)

/-- What a well-formed instruction is encoded as: a host command word, or the bytes of a wire command. -/
def encode : Instr → Request
  | .setPixel x y r g b => .word (packC .setPixel x y r g b)
  | .getPixel x y => .word (packP .getPixel x y)
  | .clearPixel x y => .word (packP .clearPixel x y)
  | .setAll r g b => .word (packA .setAll r g b)
  | .clear => .word (packN .clear)
  | .getOffset x y => .word (packP .getOffset x y)
  | .setRotation deg => .word (packI .setRotation deg.toNat)
  | .getRotation => .word (packN .getRotation)
  | .flipX => .word (packN .flipX)
  | .flipY => .word (packN .flipY)
  | .setBrightness code => .word (packI .setBrightness code.toNat)
  | .getBrightness => .word (packN .getBrightness)
  | .resolve x y => .word (packP .resolve x y)
  | .lookup c => .word (packI .lookup c.toNat)
  | .render => .word (packN .render)
  | .frame cmd payload => .word (packF .frame cmd payload)
  | .showDisplay => .word (packN .showDisplay)
  | .init => .word (packN .init)
  | .softReset => .wire [WireOp.softReset.code]
  | .globalBrightness d => .wire [WireOp.globalBrightness.code, d]
  | .comPinCtrl c => .wire [WireOp.comPinCtrl.code, c]
  | .rowPinCtrl a b c d => .wire [WireOp.rowPinCtrl.code, a, b, c, d]
  | .writeDisplay a => .wire [WireOp.writeDisplay.code, a]
  | .readDisplay => .wire [WireOp.readDisplay.code]
  | .systemCtrl s => .wire [WireOp.systemCtrl.code, s]
  | .scrollCtrl s => .wire [WireOp.scrollCtrl.code, s]

/-! ### The opcode table's numbering of an instruction's bits -/

/-- The n bytes of a number, the first byte the highest. -/
def bytesHighFirst : Nat → Nat → List Byte
  | 0, _ => []
  | n + 1, w => bytesHighFirst n (w / 256) ++ [BitVec.ofNat 8 w]

/-- The request that an instruction's bits stand for: 64 bits are a host command word (R81); fewer are the bytes
of a wire command, which the table reads as one number with the first byte the highest (assumption 9). -/
def requestOfTableWord (nbits w : Nat) : Request :=
  if nbits = 64 then .word (BitVec.ofNat 64 w) else .wire (bytesHighFirst (nbits / 8) w)

/-- The instruction the decoder reads from an instruction whose bits are w, as the opcode table numbers them. -/
def decodeTableWord (nbits w : Nat) : Option Instr :=
  match decode (requestOfTableWord nbits w) with
  | .ok i => some i
  | .error _ => none

end Sys2Proof
end

