-- ==== Sys2Proof/Config.lean ====
section
/-!
DEFINITION. What one build of the core fixes (R7, R8, R36) and the transport's answers (R194). An open
parameter is a constant without a body: nothing can be proved about its value.
-/

namespace Sys2Proof

/-- The two links (R33): link 0 and link 1. -/
inductive Link where
  | link0
  | link1
  deriving DecidableEq, Repr

/-- The base offset of a link in the physical buffer: BASE[0] = 0, BASE[1] = 224 (R7, R33). -/
def Link.base : Link → Nat
  | .link0 => 0
  | .link1 => 224

/-- The transport's answer to one frame (R194): success, failure, or no answer ever. -/
inductive Answer where
  /-- The transport took the whole frame. -/
  | success
  /-- The transport refused the frame. -/
  | failure
  /-- The transport never answers: the operation in progress never ends (R250). -/
  | never
  deriving DecidableEq, Repr, Inhabited

/-- One entry of the channel LUT (R32): three byte offsets into PHYS. The type carries LUT_IN_RANGE of R153. -/
structure LutEntry where
  rOff : PhysAddr
  gOff : PhysAddr
  bOff : PhysAddr
  deriving DecidableEq, Repr, Inhabited

/-- The channel LUT: one entry for each canonical display index (R32, R150). -/
abbrev Lut := PixelIndex → LutEntry

/-- The open parameters of R8. The counts of the data bytes are those of R96 (assumption 11). -/
structure Params where
  /-- LUT, the 119 entries (R151). -/
  lut        : Lut
  /-- WD_ADDR, the second byte of the display-write header (R201). -/
  wdAddr     : Byte
  /-- INIT_GB, data byte of INIT step 2. -/
  initGb     : Byte
  /-- INIT_SCROLL, data byte of INIT step 3. -/
  initScroll : Byte
  /-- INIT_SYS_OFF, data byte of INIT step 4. -/
  initSysOff : Byte
  /-- INIT_COM, data byte of INIT step 6. -/
  initCom    : Byte
  /-- INIT_ROW[0], first data byte of INIT step 7. -/
  initRow0   : Byte
  /-- INIT_ROW[1]. -/
  initRow1   : Byte
  /-- INIT_ROW[2]. -/
  initRow2   : Byte
  /-- INIT_ROW[3]. -/
  initRow3   : Byte
  /-- INIT_SYS_ON, data byte of INIT step 8. -/
  initSysOn  : Byte
  /-- BRI_RESET, the brightness code after reset (R38). -/
  briReset   : Brightness
  deriving Inhabited

/-- The parameters of this build. The spec gives no value for any of them (R8), so there is no body
(assumption 2). -/
opaque Config.params : Params

/-- What the transport answers to the frame of number n, for the frames a state's own list of answers no
longer reaches (assumption 1). No body: the spec says "any value" (93_implementation_defined.md U8). -/
opaque Config.transportAnswer : Nat → Answer

/-- RENDER_ORDER: "0, 1, 2, ..., 118 in this order" (R167; decision D9, assumption 10). -/
def Config.renderOrder : List PixelIndex := List.finRange 119

end Sys2Proof
end

