-- ==== Sys2Proof/Machine/State.lean ====
section
/-!
DEFINITION. The state of the core (R21), what stands at its interfaces (R50), and the state after reset (R38).
-/

namespace Sys2Proof.Machine

/-- ROT: exactly four values (R25). The 2-bit code rc of R25 is observable nowhere, so it is not modelled as bits. -/
inductive Rotation where
  | r0
  | r90
  | r180
  | r270
  deriving DecidableEq, Repr

/-- One entry of G: three 6-bit channels (R22). -/
structure Pixel where
  r : Channel
  g : Channel
  b : Channel
  deriving DecidableEq, Repr

/-- The pixel (0, 0, 0). -/
def Pixel.black : Pixel := ⟨0#6, 0#6, 0#6⟩

/-- The logical grid G: exactly 119 entries by storage index (R22). -/
abbrev Grid := Vector Pixel 119

/-- The physical frame buffer PHYS (R31) as its bytes that are not 0: offsets strictly rising, no entry equal to 0.
A byte that is not listed reads as 0, the value R38 gives it at reset (assumption 12). -/
abbrev Memory := List Host.Cell

/-- One frame the core presented on a link, with the transport's answer to it (R194). -/
structure Emission where
  link   : Link
  bytes  : List Byte
  answer : Answer
  deriving DecidableEq, Repr

/-- The reset interface (R50, R270, R271). The spec says what reset does and leaves open how it is asserted: the form is the
model's (assumption 8). -/
inductive ResetLine where
  /-- Reset is not asserted. -/
  | idle
  /-- Reset is asserted between two operations, or while one hangs on the transport: the next step is the reset. -/
  | asserted
  /-- Reset is asserted during the next operation, once the given number of its frames have been presented and answered: the
  operation is abandoned there. An operation that has ended by then, or hangs, is followed by the reset. -/
  | during (frames : Nat)
  deriving DecidableEq, Repr

/-- The machine. The first seven fields are the tuple of R21; the rest stands at the interfaces of R50 and is the
model's own (assumptions 1, 4, 5, 7, 8, 18). -/
structure State where
  /-- G (R22). -/
  grid      : Grid
  /-- ROT (R25). -/
  rot       : Rotation
  /-- FLIPX (R26). -/
  flipX     : Bool
  /-- FLIPY (R27). -/
  flipY     : Bool
  /-- BRI (R28). -/
  bri       : Brightness
  /-- INITED (R29): false is UNINIT, true is READY. -/
  inited    : Bool
  /-- PHYS (R31). -/
  phys      : Memory
  /-- An operation is in progress that the transport never answered (R250). -/
  hung      : Bool
  /-- The reset interface (R50, R270). -/
  resetLine : ResetLine
  /-- What the host has issued and the core has not taken, oldest first (R57, R63). -/
  pending   : List Request
  /-- The transport's coming answers, one for each frame (R194). -/
  answers   : List Answer
  /-- The response words given on the host port, oldest first (R89). -/
  responses : List Hrw
  /-- The frames presented on the links, oldest first (R64). -/
  wire      : List Emission
  deriving DecidableEq, Repr

/-- Why the machine can stop with a fault: for no reason. Every abnormal event is an error status of the operation (R240),
and bytes at the framer's command input are sent whatever they are (R98; assumption 14), so there is no constructor and
nothing raises one. Safe: a machine that never stops forbids no run. -/
inductive Fault where
  deriving DecidableEq, Repr

/-- Why an instruction can be refused. -/
inductive Refusal where
  /-- An instruction that has no meaning yet. Safe: the machine stops. No arm of exec answers so. -/
  | notModelled (mnemonic : String)
  deriving DecidableEq, Repr

/-- The machine right after reset (R38, R271): every field of the core at the value R38 gives it, BRI at the open
parameter BRI_RESET, and nothing at the interfaces (assumption 4). -/
def State.reset : State where
  grid := Vector.replicate 119 Pixel.black
  rot := .r0
  flipX := false
  flipY := false
  bri := Config.params.briReset
  inited := false
  phys := []
  hung := false
  resetLine := .idle
  pending := []
  answers := []
  responses := []
  wire := []

end Sys2Proof.Machine
end

