-- ==== Sys2Proof/Machine/Ops.lean ====
section
/-!
DEFINITION. The named operations over PHYS, the state's fields, the host port and the link ports, among them
taking an error (R247) and presenting a frame (R194).
-/

namespace Sys2Proof.Machine

/-! ### The physical frame buffer (R31) -/

/-- The freshly zeroed buffer of R167: nothing listed. -/
def Memory.zero : Memory := []

/-- The byte stored under a key, 0 where none is listed. -/
def Memory.lookup : Memory → Nat → Byte
  | [], _ => 0#8
  | (b, u) :: m, a => if a = b then u else Memory.lookup m a

/-- MemRead(a, 1) of R12. -/
def Memory.read (m : Memory) (a : PhysAddr) : Byte := Memory.lookup m a.val

/-- An entry in front of a list whose offsets are all higher: none for the byte 0. -/
def Memory.push (a : Nat) (v : Byte) (m : Memory) : Memory := if v = 0#8 then m else (a, v) :: m

/-- The write under a key, which keeps the offsets rising and lists no byte 0. -/
def Memory.insert : Memory → Nat → Byte → Memory
  | [], a, v => Memory.push a v []
  | (b, u) :: m, a, v =>
    if a < b then Memory.push a v ((b, u) :: m)
    else if a = b then Memory.push a v m
    else (b, u) :: Memory.insert m a v

/-- MemWrite(a, 1, v) of R12. -/
def Memory.write (m : Memory) (a : PhysAddr) (v : Byte) : Memory := Memory.insert m a.val v

/-- The canonical form: offsets below 448 and strictly rising, no byte 0 listed. -/
abbrev Memory.wf (m : Memory) : Prop :=
  m.Pairwise (fun c d => c.1 < d.1) ∧ ∀ c ∈ m, c.1 < 448 ∧ c.2 ≠ 0#8

/-- PHYS as the 448-byte sequence that frame reads (R191), offset 0 first. -/
def Memory.bytes (m : Memory) : List Byte := (List.finRange 448).map m.read

/-! ### Writing the state's fields -/

/-- G[i] (R12). -/
def State.pixel (s : State) (i : PixelIndex) : Pixel := s.grid.get i

/-- G <- g. -/
def State.setGrid (s : State) (g : Grid) : State := { s with grid := g }

/-- G[i] <- p, one entry with all three channels (R56). -/
def State.setPixelAt (s : State) (i : PixelIndex) (p : Pixel) : State := s.setGrid (s.grid.set i.val p i.isLt)

/-- G[i] <- p for every i (R165, R166). -/
def State.fillGrid (s : State) (p : Pixel) : State := s.setGrid (Vector.replicate 119 p)

/-- PHYS <- m. -/
def State.setPhys (s : State) (m : Memory) : State := { s with phys := m }

/-- INITED <- v (R29). -/
def State.setInited (s : State) (v : Bool) : State := { s with inited := v }

/-- The requests that still stand at the host's side. -/
def State.setPending (s : State) (rs : List Request) : State := { s with pending := rs }

/-- The reset interface as the host drives it. -/
def State.setResetLine (s : State) (v : ResetLine) : State := { s with resetLine := v }

/-! ### The host port: response words and errors (R89, R240, R247) -/

/-- The three errors of R240. -/
inductive ErrorKind where
  | invalidPixel
  | invalidArgument
  | transferError
  deriving DecidableEq, Repr

/-- STATUS of an error (R240). -/
def ErrorKind.status : ErrorKind → Nat
  | .invalidPixel => 1
  | .invalidArgument => 2
  | .transferError => 3

/-- The response word: STATUS in [39:32], DATA in [31:0] (R89). -/
def hrw (status : Nat) (data : BitVec 32) : Hrw := BitVec.ofNat 40 (status * 2 ^ 32 + data.toNat)

/-- A response word goes out on the host port. -/
def State.addResponse (s : State) (w : Hrw) : State := { s with responses := s.responses ++ [w] }

/-- respond(v) of R12: the operation ends with status OK and data v. -/
def respond (v : BitVec 32) (s : State) : State := s.addResponse (hrw 0 v)

/-- Taking an error, the core's "trap entry" (R247): the operation ends with the error's STATUS and DATA = 0.
Nothing is saved, no mode changes, and control goes nowhere. There is no return from it (R249): the core is ready
for the next operation at once. -/
def raise (e : ErrorKind) (s : State) : State := s.addResponse (hrw e.status 0#32)

/-- What a function of the core answers becomes the operation's end: its data, or its error. -/
def respondOr {α : Type} (r : Except ErrorKind α) (data : α → BitVec 32) (s : State) : State :=
  match r with
  | .ok v => respond (data v) s
  | .error e => raise e s

/-- The core takes host operations other than INIT: READY (R252) and not held by a transport that never answers
(R250). -/
def State.ready (s : State) : Bool := s.inited && !s.hung

/-- A host operation other than INIT: it runs in READY; in UNINIT it "is not taken: the core produces no response
word for it and changes nothing" (R252, assumption 6), and likewise while the core is hung (R250). -/
def hostOperation (s : State) (run : State → State) : Host.Outcome State Fault Refusal :=
  .next (if s.ready then run s else s)

/-- INIT, which is accepted in both states (R224), and the wire commands, which INIT itself sends in UNINIT: held off
only while the core is hung (R250). -/
def anyTimeOperation (s : State) (run : State → State) : Host.Outcome State Fault Refusal :=
  .next (if s.hung then s else run s)

/-! ### The link ports (R191 to R196) -/

/-- The bytes [base, base + n) of a buffer. -/
def slice (buf : List Byte) (base n : Nat) : List Byte := (buf.drop base).take n

/-- The function frame of R191: the frame for link 0 and the frame for link 1. -/
def frame (cmd : List Byte) (payload : Option (List Byte × Nat)) : List Byte × List Byte :=
  match payload with
  | none => (cmd, cmd)
  | some (buf, n) => (cmd ++ slice buf Link.link0.base n, cmd ++ slice buf Link.link1.base n)

/-- What the transport will answer to the frame after the next k (R194): the state's own answers first; beyond them a
free value for each frame, by the number of frames presented before it (assumption 1). -/
def State.answerAt (s : State) (k : Nat) : Answer :=
  (s.answers[k]?).getD (Config.transportAnswer (s.wire.length + k))

/-- A frame on a link with its answer: the answer is used up, and an answer that never comes leaves the operation in
progress for good (R250). -/
def State.addEmission (s : State) (k : Link) (bytes : List Byte) (a : Answer) : State :=
  { s with answers := s.answers.tail, wire := s.wire ++ [⟨k, bytes, a⟩], hung := s.hung || a == .never }

/-- emit(k, bytes) of R194. -/
def emit (k : Link) (bytes : List Byte) (s : State) : Answer × State :=
  (s.answerAt 0, s.addEmission k bytes (s.answerAt 0))

/-- transfer(f0, f1) of R196: link 0, then link 1 if link 0's frame was taken. -/
def transfer (f : List Byte × List Byte) (s : State) : Answer × State :=
  match emit .link0 f.1 s with
  | (.success, t) => emit .link1 f.2 t
  | stopped => stopped

/-- A sequence of transfers, in order, up to the first that does not succeed (R226). -/
def transferAll (fs : List (List Byte × List Byte)) (s : State) : Answer × State :=
  match fs with
  | [] => (.success, s)
  | f :: rest =>
    match transfer f s with
    | (.success, t) => transferAll rest t
    | stopped => stopped

/-- The end of an operation that transfers: OK after what is still to be done; TransferError at a refused frame
(R243); nothing at all, no response word either, where the transport never answers (R250). -/
def finishTransfer (r : Answer × State) (onSuccess : State → State) : State :=
  match r with
  | (.success, t) => respond 0#32 (onSuccess t)
  | (.failure, t) => raise .transferError t
  | (.never, t) => t

/-! ### Reset and the taking of requests (R252, R271) -/

/-- The reset interface: every piece of state of R38 at its reset value, the operation in progress abandoned, nothing
sent (R271). What belongs to the host and the transport stays (assumption 8). -/
def State.applyReset (s : State) : State :=
  { State.reset with pending := s.pending, answers := s.answers, responses := s.responses, wire := s.wire }

/-- Reset in the middle of an operation, after the given number of its frames (R271; assumption 8). The first state is the
one the operation starts in, the second the one it would have ended in. The frames presented by then stay presented and
their answers used up, no further frame is presented, and the operation has no response word unless it had ended by then;
every effect on the core's own state is wiped out by the reset values of R38. -/
def State.resetDuring (s ended : State) (frames : Nat) : State :=
  let es := ended.wire.drop s.wire.length
  { State.reset with
    pending := ended.pending
    answers := s.answers.drop (es.take frames).length
    responses := if frames ≤ es.length then s.responses else ended.responses
    wire := s.wire ++ es.take frames }

/-- Whether the request is INIT, the one host command word taken in UNINIT (R252; assumption 6), or comes to the
framer and not to the host port. -/
def Request.takenBeforeInit (r : Request) : Bool :=
  match r with
  | .word w =>
    match decodeWord w with
    | .ok .init => true
    | _ => false
  | .wire _ => true

/-- The first check of R246: in UNINIT nothing but INIT is accepted. -/
def State.accepts (s : State) (r : Request) : Bool := s.inited || Request.takenBeforeInit r

/-- The request placed so that the next step takes it: in front of what is pending, reset not asserted, no operation
in progress, and INITED set where the request needs it (assumption 13). -/
def State.placeRequest (s : State) (r : Request) : State :=
  { s with
    pending := r :: s.pending
    hung := false
    resetLine := .idle
    inited := s.inited || !Request.takenBeforeInit r }

end Sys2Proof.Machine
end

