-- ==== Sys2Proof/Machine/Flags.lean ====
section
/-!
DEFINITION. The control fields ROT, FLIPX, FLIPY and BRI (R25 to R28): how each is computed and written.
-/

namespace Sys2Proof.Machine

/-- ROT in degrees (R25). -/
def Rotation.degrees : Rotation → Nat
  | .r0 => 0
  | .r90 => 90
  | .r180 => 180
  | .r270 => 270

/-- The rotation of an operand in degrees: only 0, 90, 180 and 270 are legal, and nothing is reduced modulo 360
(R93, R130). -/
def legalRotation (deg : Nat) : Except ErrorKind Rotation :=
  if deg = 0 then .ok .r0
  else if deg = 90 then .ok .r90
  else if deg = 180 then .ok .r180
  else if deg = 270 then .ok .r270
  else .error .invalidArgument

/-- ROT <- v. -/
def State.setRot (s : State) (v : Rotation) : State := { s with rot := v }

/-- FLIPX <- !FLIPX (R132). -/
def State.toggleFlipX (s : State) : State := { s with flipX := !s.flipX }

/-- FLIPY <- !FLIPY (R133). -/
def State.toggleFlipY (s : State) : State := { s with flipY := !s.flipY }

/-- BRI <- v (R220). -/
def State.setBri (s : State) (v : Brightness) : State := { s with bri := v }

/-- DATA of GET_ROTATION: [15:0] = ROT in degrees (R90). -/
def rotationData (v : Rotation) : BitVec 32 := BitVec.ofNat 32 v.degrees

/-- DATA of GET_BRIGHTNESS: [5:0] = BRI (R90). -/
def brightnessData (v : Brightness) : BitVec 32 := v.setWidth 32

end Sys2Proof.Machine
end

