-- ==== Sys2Proof/Machine/Operands.lean ====
section
/-!
DEFINITION. Operand assembly (R91 to R93), the addressing of the logical grid (R160) and the layouts of DATA (R90).
-/

namespace Sys2Proof.Machine

/-- sext_8(f): a coordinate field read as a two's-complement integer (R91). -/
def coordinate (f : Byte) : Int := f.toInt

/-- 0 ≤ x < 17 and 0 ≤ y < 7 (R55). -/
abbrev InRange (x y : Int) : Prop := 0 ≤ x ∧ x < 17 ∧ 0 ≤ y ∧ y < 7

theorem storage_lt {x y : Int} (h : InRange x y) : (x * 7 + y).toNat < 119 := by
  obtain ⟨h1, h2, h3, h4⟩ := h
  omega

/-- getOffset (R160): the storage index of an unrotated position, or InvalidPixel. -/
def getOffset (x y : Int) : Except ErrorKind PixelIndex :=
  if h : InRange x y then .ok ⟨(x * 7 + y).toNat, storage_lt h⟩ else .error .invalidPixel

/-- c >> 2: the stored channel of an 8-bit input channel (R14, R162). -/
def storedChannel (c : Byte) : Channel := BitVec.ofNat 6 (c.toNat / 4)

/-- (r >> 2, g >> 2, b >> 2) (R162). -/
def storedColour (r g b : Byte) : Pixel := ⟨storedChannel r, storedChannel g, storedChannel b⟩

/-- A stored channel or a brightness code as a byte: the two high bits 0 (R52, R167). -/
def byteOf (c : BitVec 6) : Byte := c.setWidth 8

/-- DATA of GET_PIXEL: [23:16] = r, [15:8] = g, [7:0] = b (R90). -/
def pixelData (p : Pixel) : BitVec 32 := BitVec.ofNat 32 (p.r.toNat * 2 ^ 16 + p.g.toNat * 2 ^ 8 + p.b.toNat)

/-- DATA of GET_OFFSET and RESOLVE: [6:0] = the index (R90). -/
def indexData (i : PixelIndex) : BitVec 32 := BitVec.ofNat 32 i.val

/-- DATA of LOOKUP: [26:18] = rOff, [17:9] = gOff, [8:0] = bOff (R90). -/
def lutData (e : LutEntry) : BitVec 32 :=
  BitVec.ofNat 32 (e.rOff.val * 2 ^ 18 + e.gOff.val * 2 ^ 9 + e.bOff.val)

end Sys2Proof.Machine
end

