-- ==== Sys2Proof/Machine/Orientation.lean ====
section
/-!
DEFINITION. The Orientation Transform (R120 to R127) and its operations RESOLVE, SET_ROTATION, GET_ROTATION, FLIP_X
and FLIP_Y (R129 to R133).
-/

namespace Sys2Proof.Machine

/-- crop, the source's cropOffset (R121). -/
def crop (v : Int) (bound : Nat) : Nat :=
  if v ≥ (bound : Int) then bound - 1 else if v < 0 then 0 else v.toNat

/-- Stage 2: the rotated coordinate (R123). The constants are ROWS = 7 and COLS = 17, "and not ROWS − 1 and
COLS − 1". -/
def rotated (rot : Rotation) (x y : Int) : Int × Int :=
  match rot with
  | .r0 => (x, y)
  | .r90 => (y, 7 - x)
  | .r180 => (x, y)
  | .r270 => (17 - y, x)

/-- Stage 2: the effective flags (R123); only rotation 180 toggles them. -/
def effectiveFlips (rot : Rotation) (fx fy : Bool) : Bool × Bool :=
  match rot with
  | .r0 => (fx, fy)
  | .r90 => (fx, fy)
  | .r180 => (!fx, !fy)
  | .r270 => (fx, fy)

/-- Stage 4 on one axis: v → last − v where the flag is set (R125). -/
def flipAxis (last : Nat) (f : Bool) (v : Nat) : Nat := if f then last - v else v

theorem crop_lt (v : Int) {bound : Nat} (h : 0 < bound) : crop v bound < bound := by
  unfold crop
  split
  · omega
  · split <;> omega

theorem flipAxis_le {last v : Nat} (f : Bool) (h : v ≤ last) : flipAxis last f v ≤ last := by
  unfold flipAxis
  split <;> omega

/-- Stages 3 and 4 on the x axis: clamped against COLS, then flipped (R124, R125). -/
def finalX (x1 : Int) (fx1 : Bool) : Nat := flipAxis 16 fx1 (crop x1 17)

/-- Stages 3 and 4 on the y axis: clamped against ROWS, then flipped (R124, R125). -/
def finalY (y1 : Int) (fy1 : Bool) : Nat := flipAxis 6 fy1 (crop y1 7)

theorem finalX_le (x1 : Int) (f : Bool) : finalX x1 f ≤ 16 :=
  flipAxis_le f (Nat.le_of_lt_succ (crop_lt x1 (by decide)))

theorem finalY_le (y1 : Int) (f : Bool) : finalY y1 f ≤ 6 :=
  flipAxis_le f (Nat.le_of_lt_succ (crop_lt y1 (by decide)))

theorem index_lt {x y : Nat} (hx : x ≤ 16) (hy : y ≤ 6) : x * 7 + y < 119 := by omega

/-- Stages 2 to 5 (R123 to R126): the canonical index of a position that passed the range check. -/
def canonicalIndex (rot : Rotation) (fx fy : Bool) (x y : Int) : PixelIndex :=
  let p := rotated rot x y
  let f := effectiveFlips rot fx fy
  ⟨finalX p.1 f.1 * 7 + finalY p.2 f.2, index_lt (finalX_le p.1 f.1) (finalY_le p.2 f.2)⟩

/-- resolvePosition (R127): the range check (R122), then the canonical index. -/
def resolvePosition (x y : Int) (rot : Rotation) (fx fy : Bool) : Except ErrorKind PixelIndex :=
  if InRange x y then .ok (canonicalIndex rot fx fy x y) else .error .invalidPixel

/-- RESOLVE x, y (R129). -/
def execResolve (x y : Byte) (s : State) : Host.Outcome State Fault Refusal :=
  hostOperation s fun s =>
    respondOr (resolvePosition (coordinate x) (coordinate y) s.rot s.flipX s.flipY) indexData s

/-- A store to ROT, or InvalidArgument with ROT unchanged (R130). -/
def storeRotation (deg : Nat) (s : State) : State :=
  match legalRotation deg with
  | .ok v => respond 0#32 (s.setRot v)
  | .error e => raise e s

/-- SET_ROTATION deg (R130). -/
def execSetRotation (deg : BitVec 16) (s : State) : Host.Outcome State Fault Refusal :=
  hostOperation s (storeRotation deg.toNat)

/-- GET_ROTATION (R131). -/
def execGetRotation (s : State) : Host.Outcome State Fault Refusal :=
  hostOperation s fun s => respond (rotationData s.rot) s

/-- FLIP_X (R132). -/
def execFlipX (s : State) : Host.Outcome State Fault Refusal :=
  hostOperation s fun s => respond 0#32 s.toggleFlipX

/-- FLIP_Y (R133). -/
def execFlipY (s : State) : Host.Outcome State Fault Refusal :=
  hostOperation s fun s => respond 0#32 s.toggleFlipY

end Sys2Proof.Machine
end

