-- ==== Sys2Proof/Machine/FrameBuffer.lean ====
section
/-!
DEFINITION. The Frame Buffer Model: GET_OFFSET, SET_PIXEL, GET_PIXEL, CLEAR_PIXEL, SET_ALL, CLEAR and RENDER (R161 to
R167).
-/

namespace Sys2Proof.Machine

/-- A store to G at a position, or InvalidPixel with G unchanged (R162, R164). -/
def storePixel (x y : Byte) (p : Pixel) (s : State) : State :=
  match getOffset (coordinate x) (coordinate y) with
  | .ok i => respond 0#32 (s.setPixelAt i p)
  | .error e => raise e s

/-- GET_OFFSET x, y (R161). -/
def execGetOffset (x y : Byte) (s : State) : Host.Outcome State Fault Refusal :=
  hostOperation s fun s => respondOr (getOffset (coordinate x) (coordinate y)) indexData s

/-- SET_PIXEL x, y, r, g, b (R162). -/
def execSetPixel (x y r g b : Byte) (s : State) : Host.Outcome State Fault Refusal :=
  hostOperation s (storePixel x y (storedColour r g b))

/-- GET_PIXEL x, y (R163): the stored 6-bit values. -/
def execGetPixel (x y : Byte) (s : State) : Host.Outcome State Fault Refusal :=
  hostOperation s fun s =>
    respondOr (getOffset (coordinate x) (coordinate y)) (fun i => pixelData (s.pixel i)) s

/-- CLEAR_PIXEL x, y (R164). -/
def execClearPixel (x y : Byte) (s : State) : Host.Outcome State Fault Refusal :=
  hostOperation s (storePixel x y Pixel.black)

/-- SET_ALL r, g, b (R165). -/
def execSetAll (r g b : Byte) (s : State) : Host.Outcome State Fault Refusal :=
  hostOperation s fun s => respond 0#32 (s.fillGrid (storedColour r g b))

/-- CLEAR (R166). -/
def execClear (s : State) : Host.Outcome State Fault Refusal :=
  hostOperation s fun s => respond 0#32 (s.fillGrid Pixel.black)

/-- The canonical index of the pixel stored at s: x = s div 7, y = s mod 7 (R167). The range check of
resolvePosition passes for every such position (Laws.resolvePosition_of_storage). -/
def laneIndex (rot : Rotation) (fx fy : Bool) (i : PixelIndex) : PixelIndex :=
  canonicalIndex rot fx fy ((i.val / 7 : Nat) : Int) ((i.val % 7 : Nat) : Int)

/-- The three writes of one lane, red, green, blue in this order (R167). -/
def writeEntry (e : LutEntry) (p : Pixel) (m : Memory) : Memory :=
  ((m.write e.rOff (byteOf p.r)).write e.gOff (byteOf p.g)).write e.bOff (byteOf p.b)

/-- The buffer RENDER builds from the grid and the orientation, scanning the storage indices in the given order
(R167). -/
def renderBuffer (lut : Lut) (order : List PixelIndex) (g : Grid) (rot : Rotation) (fx fy : Bool) : Memory :=
  order.foldl (fun m i => writeEntry (lut (laneIndex rot fx fy i)) (g.get i) m) Memory.zero

/-- RENDER without its response (R223), with a given table. -/
def renderWith (lut : Lut) (s : State) : State :=
  s.setPhys (renderBuffer lut Config.renderOrder s.grid s.rot s.flipX s.flipY)

/-- RENDER (R167). -/
def execRender (s : State) : Host.Outcome State Fault Refusal :=
  hostOperation s fun s => respond 0#32 (renderWith Config.params.lut s)

end Sys2Proof.Machine
end

