-- ==== Sys2Proof/Machine/Framer.lean ====
section
/-!
DEFINITION. The Link Splitter / Protocol Framer: FRAME (R195) and the eight wire commands (R197 to R204).
-/

namespace Sys2Proof.Machine

/-- The payload length of one link, and PHYS as it stands (R195). -/
def framePayload (payload : Option Byte) (s : State) : Option (List Byte × Nat) :=
  payload.map fun len => (s.phys.bytes, len.toNat)

/-- FRAME once it is accepted (R195): LEN above 224 is InvalidArgument before anything is sent. -/
def frameAndTransfer (cmd : List Byte) (payload : Option Byte) (s : State) : State :=
  if 224 < (payload.getD 0#8).toNat then raise .invalidArgument s
  else finishTransfer (transferAll [frame cmd (framePayload payload s)] s) id

/-- FRAME (R195). -/
def execFrame (cmd : List Byte) (payload : Option Byte) (s : State) : Host.Outcome State Fault Refusal :=
  hostOperation s (frameAndTransfer cmd payload)

/-! ### The frames of the wire commands -/

/-- `CC` (R197). -/
def softResetFrames : List Byte × List Byte := frame [0xCC#8] none

/-- `37 dd` (R198). -/
def globalBrightnessFrames (d : Byte) : List Byte × List Byte := frame [0x37#8, d] none

/-- `41 dd` (R199). -/
def comPinCtrlFrames (c : Byte) : List Byte × List Byte := frame [0x41#8, c] none

/-- `42 d0 d1 d2 d3` (R200). -/
def rowPinCtrlFrames (a b c d : Byte) : List Byte × List Byte := frame [0x42#8, a, b, c, d] none

/-- `80 aa` and the link's 224 bytes of the buffer (R201). -/
def writeDisplayFrames (a : Byte) (buf : List Byte) : List Byte × List Byte := frame [0x80#8, a] (some (buf, 224))

/-- `81` (R202). -/
def readDisplayFrames : List Byte × List Byte := frame [0x81#8] none

/-- `35 dd` (R203). -/
def systemCtrlFrames (d : Byte) : List Byte × List Byte := frame [0x35#8, d] none

/-- `20 dd` (R204). -/
def scrollCtrlFrames (d : Byte) : List Byte × List Byte := frame [0x20#8, d] none

/-! ### A wire command run on its own

Its effect is the transfer of its frames (R196); a response word belongs to a host operation (R89), so a wire command
gives none (assumption 5). -/

/-- The transfer of one wire command's frames. -/
def sendWire (f : List Byte × List Byte) (s : State) : State := (transfer f s).2

/-- SOFT_RESET (R197). -/
def execSoftReset (s : State) : Host.Outcome State Fault Refusal :=
  anyTimeOperation s (sendWire softResetFrames)

/-- GLOBAL_BRIGHTNESS d (R198). -/
def execGlobalBrightness (d : Byte) (s : State) : Host.Outcome State Fault Refusal :=
  anyTimeOperation s (sendWire (globalBrightnessFrames d))

/-- COM_PIN_CTRL c (R199). -/
def execComPinCtrl (c : Byte) (s : State) : Host.Outcome State Fault Refusal :=
  anyTimeOperation s (sendWire (comPinCtrlFrames c))

/-- ROW_PIN_CTRL a, b, c, d (R200). -/
def execRowPinCtrl (a b c d : Byte) (s : State) : Host.Outcome State Fault Refusal :=
  anyTimeOperation s (sendWire (rowPinCtrlFrames a b c d))

/-- WRITE_DISPLAY a, with PHYS as the buffer (R201). -/
def execWriteDisplay (a : Byte) (s : State) : Host.Outcome State Fault Refusal :=
  anyTimeOperation s fun s => sendWire (writeDisplayFrames a s.phys.bytes) s

/-- READ_DISPLAY (R202): the byte is sent like any other and nothing comes back. -/
def execReadDisplay (s : State) : Host.Outcome State Fault Refusal :=
  anyTimeOperation s (sendWire readDisplayFrames)

/-- SYSTEM_CTRL s (R203). -/
def execSystemCtrl (d : Byte) (s : State) : Host.Outcome State Fault Refusal :=
  anyTimeOperation s (sendWire (systemCtrlFrames d))

/-- SCROLL_CTRL s (R204). -/
def execScrollCtrl (d : Byte) (s : State) : Host.Outcome State Fault Refusal :=
  anyTimeOperation s (sendWire (scrollCtrlFrames d))

end Sys2Proof.Machine
end

