-- ==== Sys2Proof/Machine/HostSequences.lean ====
section
/-!
DEFINITION. The host sequences: SET_BRIGHTNESS, GET_BRIGHTNESS, SHOW and INIT (R220 to R226).
-/

namespace Sys2Proof.Machine

/-- SET_BRIGHTNESS code (R220): nothing is sent. -/
def execSetBrightness (code : Brightness) (s : State) : Host.Outcome State Fault Refusal :=
  hostOperation s fun s => respond 0#32 (s.setBri code)

/-- GET_BRIGHTNESS (R221). -/
def execGetBrightness (s : State) : Host.Outcome State Fault Refusal :=
  hostOperation s fun s => respond (brightnessData s.bri) s

/-- The two transfers of SHOW, in order (R223): the display write of PHYS, then the brightness code. -/
def showFrames (wdAddr : Byte) (s : State) : List (List Byte × List Byte) :=
  [writeDisplayFrames wdAddr s.phys.bytes, globalBrightnessFrames (byteOf s.bri)]

/-- SHOW once it is accepted (R223): RENDER, then the two transfers. -/
def showWith (p : Params) (s : State) : State :=
  let t := renderWith p.lut s
  finishTransfer (transferAll (showFrames p.wdAddr t) t) id

/-- SHOW (R223). -/
def execShow (s : State) : Host.Outcome State Fault Refusal :=
  hostOperation s (showWith Config.params)

/-- The 448 literal zero bytes of INIT step 5 (R225). -/
def zeroBuffer : List Byte := List.replicate 448 0#8

/-- The eight steps of INIT, in order (R225). -/
def initFrames (p : Params) : List (List Byte × List Byte) :=
  [softResetFrames,
   globalBrightnessFrames p.initGb,
   scrollCtrlFrames p.initScroll,
   systemCtrlFrames p.initSysOff,
   writeDisplayFrames p.wdAddr zeroBuffer,
   comPinCtrlFrames p.initCom,
   rowPinCtrlFrames p.initRow0 p.initRow1 p.initRow2 p.initRow3,
   systemCtrlFrames p.initSysOn]

/-- INIT once it is accepted (R224): INITED is cleared, and set again after the last transfer. -/
def initWith (p : Params) (s : State) : State :=
  finishTransfer (transferAll (initFrames p) (s.setInited false)) fun t => t.setInited true

/-- INIT (R224). -/
def execInit (s : State) : Host.Outcome State Fault Refusal :=
  anyTimeOperation s (initWith Config.params)

end Sys2Proof.Machine
end

