-- ==== Sys2Proof/Machine/PixelLut.lean ====
section
/-!
DEFINITION. The channel LUT lookup (R150) and its operation LOOKUP (R152).
-/

namespace Sys2Proof.Machine

/-- lookup(c) (R150), with InvalidPixel for c ≥ 119 (R152; the spec's decision D20). -/
def lookupLut (lut : Lut) (c : Nat) : Except ErrorKind LutEntry :=
  if h : c < 119 then .ok (lut ⟨c, h⟩) else .error .invalidPixel

/-- LOOKUP c with a given table. -/
def lookupWith (lut : Lut) (c : BitVec 16) (s : State) : State := respondOr (lookupLut lut c.toNat) lutData s

/-- LOOKUP c (R152). -/
def execLookup (c : BitVec 16) (s : State) : Host.Outcome State Fault Refusal :=
  hostOperation s (lookupWith Config.params.lut c)

end Sys2Proof.Machine
end

