-- ==== Sys2Proof/Machine/Dispatch.lean ====
section
/-!
DEFINITION. One arm for each instruction, each a direct call of its meaning.
-/

namespace Sys2Proof.Machine

def exec (i : Instr) (s : State) : Host.Outcome State Fault Refusal :=
  match i with
  | .setPixel x y r g b => Sys2Proof.Machine.execSetPixel x y r g b s
  | .getPixel x y => Sys2Proof.Machine.execGetPixel x y s
  | .clearPixel x y => Sys2Proof.Machine.execClearPixel x y s
  | .setAll r g b => Sys2Proof.Machine.execSetAll r g b s
  | .clear => Sys2Proof.Machine.execClear s
  | .getOffset x y => Sys2Proof.Machine.execGetOffset x y s
  | .setRotation deg => Sys2Proof.Machine.execSetRotation deg s
  | .getRotation => Sys2Proof.Machine.execGetRotation s
  | .flipX => Sys2Proof.Machine.execFlipX s
  | .flipY => Sys2Proof.Machine.execFlipY s
  | .setBrightness code => Sys2Proof.Machine.execSetBrightness code s
  | .getBrightness => Sys2Proof.Machine.execGetBrightness s
  | .resolve x y => Sys2Proof.Machine.execResolve x y s
  | .lookup c => Sys2Proof.Machine.execLookup c s
  | .render => Sys2Proof.Machine.execRender s
  | .frame cmd payload => Sys2Proof.Machine.execFrame cmd payload s
  | .showDisplay => Sys2Proof.Machine.execShow s
  | .init => Sys2Proof.Machine.execInit s
  | .softReset => Sys2Proof.Machine.execSoftReset s
  | .globalBrightness d => Sys2Proof.Machine.execGlobalBrightness d s
  | .comPinCtrl c => Sys2Proof.Machine.execComPinCtrl c s
  | .rowPinCtrl a b c d => Sys2Proof.Machine.execRowPinCtrl a b c d s
  | .writeDisplay a => Sys2Proof.Machine.execWriteDisplay a s
  | .readDisplay => Sys2Proof.Machine.execReadDisplay s
  | .systemCtrl d => Sys2Proof.Machine.execSystemCtrl d s
  | .scrollCtrl d => Sys2Proof.Machine.execScrollCtrl d s

end Sys2Proof.Machine
end

