-- ==== Sys2Proof/Machine/Requests.lean ====
section
/-!
DEFINITION. The taking of the next request (R57, R246), with what becomes of one that is no instruction.
-/

namespace Sys2Proof.Machine

/-- A request that is no instruction. An illegal host command word is answered InvalidArgument (R99, R242). Bytes at the
framer's command input that are none of the eight wire commands are sent unchanged on both links: "the framer treats command
bytes as opaque" (R98), whatever their opcode or number (assumption 14). -/
def runUndecoded (r : Request) (s : State) : Host.Outcome State Fault Refusal :=
  match r with
  | .word _ => .next (raise .invalidArgument s)
  | .wire bytes => .next (sendWire (frame bytes none) s)

/-- The core goes on: a hung operation lets nothing happen (R250); with nothing issued the core waits (assumption 17); a
request that is not accepted stays where it is and nothing changes (R252); one that is accepted is decoded and run, or
dealt with as no instruction (R246). -/
def advance (s : State) : Host.Outcome State Fault Refusal :=
  if s.hung then .next s
  else
    match s.pending with
    | [] => .next s
    | r :: rest =>
      if s.accepts r then
        match decode r with
        | .ok i => exec i (s.setPending rest)
        | .error _ => runUndecoded r (s.setPending rest)
      else .next s

end Sys2Proof.Machine
end

