-- ==== Sys2Proof/Machine/Step.lean ====
section
/-!
DEFINITION. One step of the machine: reset, or the next request the core takes, run to its end (R57) or to the reset that
cuts it short (R271).
-/

namespace Sys2Proof.Machine

/-- One step. Asserted reset goes first (R271). A reset that comes during an operation cuts it short; where no operation
starts, it is a reset like any other. -/
def step (s : State) : Host.Outcome State Fault Refusal :=
  match s.resetLine with
  | .idle => advance s
  | .asserted => .next s.applyReset
  | .during frames =>
    match advance (s.setResetLine .idle) with
    | .next ended => .next (s.resetDuring ended frames)
    | .fault e => .fault e
    | .refused e => .refused e

/-- The state whose next step takes the instruction with the given bits, as the opcode table numbers them. -/
def State.withFetchWord (s : State) (nbits w : Nat) : State := s.placeRequest (requestOfTableWord nbits w)

end Sys2Proof.Machine
end

