-- ==== Sys2Proof/Safety.lean ====
section
/-!
DEFINITION. The terms the statements are made in: legal command words and response words as the rules list them, the
writes of a render, the frames a sequence presents, the order on the links, and the invariant of the core.
-/

namespace Sys2Proof.Machine

/-! ### Words -/

/-- Format F of R88 with the conditions of R99, on a word's number: bits [51:48] are 0, HLEN is 1 to 5, Hj is 0 for every
j ≥ HLEN, and LEN is 0 when PAY is 0. -/
def LegalFrameWord (n : Nat) : Prop :=
  n / 2 ^ 48 % 2 ^ 4 = 0 ∧
  1 ≤ n / 2 ^ 53 % 2 ^ 3 ∧ n / 2 ^ 53 % 2 ^ 3 ≤ 5 ∧
  (∀ j, n / 2 ^ 53 % 2 ^ 3 ≤ j → j < 5 → n / 2 ^ (8 * (4 - j)) % 2 ^ 8 = 0) ∧
  (n / 2 ^ 52 % 2 = 0 → n / 2 ^ 40 % 2 ^ 8 = 0)

/-- A legal host command word (R99): its OP is in the table of R86 and the must-be-zero fields of the format the table
gives that OP are 0 (R82 to R88, R94). -/
def LegalWord (w : Hcw) : Prop :=
  let n := w.toNat
  match n / 2 ^ 56 with
  | 0x01 => n % 2 ^ 16 = 0
  | 0x02 => n % 2 ^ 40 = 0
  | 0x03 => n % 2 ^ 40 = 0
  | 0x04 => n / 2 ^ 40 % 2 ^ 16 = 0 ∧ n % 2 ^ 16 = 0
  | 0x05 => n % 2 ^ 56 = 0
  | 0x06 => n % 2 ^ 40 = 0
  | 0x08 => n / 2 ^ 16 % 2 ^ 40 = 0
  | 0x09 => n % 2 ^ 56 = 0
  | 0x0A => n % 2 ^ 56 = 0
  | 0x0B => n % 2 ^ 56 = 0
  | 0x0C => n / 2 ^ 16 % 2 ^ 40 = 0 ∧ n / 2 ^ 6 % 2 ^ 10 = 0
  | 0x0D => n % 2 ^ 56 = 0
  | 0x10 => n % 2 ^ 40 = 0
  | 0x11 => n / 2 ^ 16 % 2 ^ 40 = 0
  | 0x18 => n % 2 ^ 56 = 0
  | 0x19 => LegalFrameWord n
  | 0x1A => n % 2 ^ 56 = 0
  | 0x1B => n % 2 ^ 56 = 0
  | _ => False

/-- A response word as R89 allows it: STATUS is 0, 1, 2 or 3, and DATA is 0 when STATUS is not 0. -/
def LegalResponse (w : Hrw) : Prop :=
  w.toNat / 2 ^ 32 ≤ 3 ∧ (w.toNat / 2 ^ 32 ≠ 0 → w.toNat % 2 ^ 32 = 0)

/-- A wire command of R96, as opposed to a host operation of R86 (R2). -/
def IsWireCommand (i : Instr) : Bool :=
  match encode i with
  | .word _ => false
  | .wire _ => true

/-! ### Orientation -/

/-- The canonical index of R127 in plain integer arithmetic, for a position that passed the range check: rotation
(R123), clamping against 17 columns and 7 rows (R124), flips with the effective flags (R125), x3 × 7 + y3 (R126). -/
def canonicalFormula (rot : Rotation) (fx fy : Bool) (x y : Int) : Int :=
  let x1 := match rot with
    | .r0 => x
    | .r90 => y
    | .r180 => x
    | .r270 => 17 - y
  let y1 := match rot with
    | .r0 => y
    | .r90 => 7 - x
    | .r180 => y
    | .r270 => x
  let fx1 := if rot = .r180 then !fx else fx
  let fy1 := if rot = .r180 then !fy else fy
  let x2 := max 0 (min x1 16)
  let y2 := max 0 (min y1 6)
  let x3 := if fx1 then 16 - x2 else x2
  let y3 := if fy1 then 6 - y2 else y2
  x3 * 7 + y3

/-! ### Rendering -/

/-- LUT_INJECTIVE of R153: the 357 offsets of the table are pairwise distinct. -/
def LutInjective (lut : Lut) : Prop :=
  ((List.finRange 119).flatMap fun c => [(lut c).rOff, (lut c).gOff, (lut c).bOff]).Nodup

/-- The byte writes of R167 in their order: for each storage index, ascending, red, green, blue to the offsets the LUT
gives the pixel's canonical index. -/
def renderWrites (lut : Lut) (s : State) : List (PhysAddr × Byte) :=
  (List.finRange 119).flatMap fun i =>
    let e := lut (laneIndex s.rot s.flipX s.flipY i)
    [(e.rOff, (s.pixel i).r.setWidth 8), (e.gOff, (s.pixel i).g.setWidth 8), (e.bOff, (s.pixel i).b.setWidth 8)]

/-- What a byte holds after writes to a zeroed buffer: the value of the last write to it, 0 where there is none. -/
def lastWrite (ws : List (PhysAddr × Byte)) (a : PhysAddr) : Byte :=
  (((ws.filter fun w => w.1 = a).getLast?).map Prod.snd).getD 0#8

/-! ### The links -/

/-- The payload of R193 for a link: byte j is PHYS[BASE[k] + j] (R51), for j below n ≤ 224. -/
def payloadOf (m : Memory) (k : Link) (n : Nat) : List Byte := (List.range n).map fun j => m.lookup (k.base + j)

/-- One command, the same frame on link 0 and then on link 1 (R192, R225). -/
def onBothLinks (bytes : List Byte) : List (Link × List Byte) := [(.link0, bytes), (.link1, bytes)]

/-- The frames of a sequence that are presented, each with its answer: in order, up to and including the first that is
not answered success (R196, R226). -/
def presented : List (Link × List Byte) → (Nat → Answer) → List Emission
  | [], _ => []
  | (k, bytes) :: rest, answer =>
    ⟨k, bytes, answer 0⟩ ::
      match answer 0 with
      | .success => presented rest fun j => answer (j + 1)
      | .failure => []
      | .never => []

/-- How a sequence of frames ends: the answer of the last frame presented, success where every frame was taken. -/
def ending : List (Link × List Byte) → (Nat → Answer) → Answer
  | [], _ => .success
  | _ :: rest, answer =>
    match answer 0 with
    | .success => ending rest fun j => answer (j + 1)
    | .failure => .failure
    | .never => .never

/-- The order of R64: for each command link 0's frame and then link 1's, of one length; no frame after one that was not
answered success. -/
def InLinkOrder : List Emission → Prop
  | [] => True
  | [e] => e.link = .link0 ∧ e.answer ≠ .success
  | e0 :: e1 :: rest =>
    e0.link = .link0 ∧ e0.answer = .success ∧ e1.link = .link1 ∧ e0.bytes.length = e1.bytes.length ∧
      (e1.answer ≠ .success → rest = []) ∧ InLinkOrder rest

/-- The 16 frames of INIT (R225). -/
def initPlan (p : Params) : List (Link × List Byte) :=
  onBothLinks [0xCC#8] ++
  onBothLinks [0x37#8, p.initGb] ++
  onBothLinks [0x20#8, p.initScroll] ++
  onBothLinks [0x35#8, p.initSysOff] ++
  onBothLinks (0x80#8 :: p.wdAddr :: List.replicate 224 0#8) ++
  onBothLinks [0x41#8, p.initCom] ++
  onBothLinks [0x42#8, p.initRow0, p.initRow1, p.initRow2, p.initRow3] ++
  onBothLinks [0x35#8, p.initSysOn]

/-- The four frames of SHOW for a buffer and a brightness code (R223). -/
def showPlan (p : Params) (m : Memory) (bri : Brightness) : List (Link × List Byte) :=
  [(.link0, 0x80#8 :: p.wdAddr :: payloadOf m .link0 224), (.link1, 0x80#8 :: p.wdAddr :: payloadOf m .link1 224)] ++
  onBothLinks [0x37#8, bri.setWidth 8]

/-- The two frames of FRAME (R191): the command bytes, then the payload where there is one. -/
def framePlan (cmd : List Byte) (payload : Option Byte) (m : Memory) : List (Link × List Byte) :=
  match payload with
  | none => onBothLinks cmd
  | some len => [(.link0, cmd ++ payloadOf m .link0 len.toNat), (.link1, cmd ++ payloadOf m .link1 len.toNat)]

/-! ### Runs of instructions, and what a safe state is -/

/-- The instructions of a list one after the other, up to the first that stops. -/
def execAll : List Instr → State → Host.Outcome State Fault Refusal
  | [], s => .next s
  | i :: rest, s =>
    match exec i s with
    | .next t => execAll rest t
    | .fault e => .fault e
    | .refused e => .refused e

/-- The invariant of the core: PHYS is in canonical form and every byte of it is in [0, 63] (R39 (b)); every response
word is legal (R89); every frame has 1 to 229 bytes (R101); only a frame the transport never answered, the last one
presented, leaves an operation in progress (R250); and what waits at the framer's command input has 1 to HDR_MAX = 5
command bytes (R95, assumption 14). The other clauses of R39 are carried by the fields' types. -/
structure State.Inv (s : State) : Prop where
  physCanonical  : s.phys.wf
  physSixBits    : ∀ a, (s.phys.read a).toNat ≤ 63
  responsesLegal : ∀ w ∈ s.responses, LegalResponse w
  framesLegal    : ∀ f ∈ s.wire, 1 ≤ f.bytes.length ∧ f.bytes.length ≤ 229
  pendingCommands : ∀ bytes, Request.wire bytes ∈ s.pending → 1 ≤ bytes.length ∧ bytes.length ≤ 5
  hungByLastFrame : s.hung = true → ∃ f, s.wire.getLast? = some f ∧ f.answer = .never

/-- A step is safe when it ends in a next state. -/
def SafeStep (s : State) : Prop := ∃ t, step s = .next t

end Sys2Proof.Machine
end

