-- ==== Sys2Proof/Certificates/Slice0/Obligations.lean ====
section
/-!
DEFINITION. The statements about the core. A name of the form R<n> is a numbered rule of spec/. "Ready" in a docstring
means INITED = 1 and no operation held by a transport that never answers (R252, R250). A response word is written out as
a number: 0x0000000000 is OK with DATA 0, 0x0100000000 InvalidPixel, 0x0200000000 InvalidArgument, 0x0300000000
TransferError (R89). A next state written as the old one with some fields replaced says that every other field, memory
included, is unchanged.
-/

open Sys2Proof Sys2Proof.Machine

/-! ## Encoding -/

/-- Decoding the encoding of a well-formed instruction gives the instruction back, every operand at every value. -/
def Obligations.DecodeOfEncodeIsTheInstruction : Prop :=
  ∀ i : Instr, i.WellFormed = true → decode (encode i) = .ok i

/-- Each word or wire command that decodes has one meaning: what is decoded is well-formed, and its encoding is the very
request that was decoded. -/
def Obligations.EncodeOfDecodeIsTheRequest : Prop :=
  ∀ (r : Request) (i : Instr), decode r = .ok i → i.WellFormed = true ∧ encode i = r

/-- Words written out from the spec's formats decode to the instruction they stand for: one of each format N, P, C, A, I,
F (R82 to R88) and wire commands with 0, 1 and 4 data bytes (R96). -/
def Obligations.WordsOfTheSpecDecode : Prop :=
  decode (.word 0x0500000000000000#64) = .ok .clear ∧
  decode (.word 0x02FF030000000000#64) = .ok (.getPixel 0xFF#8 3#8) ∧
  decode (.word 0x010302FF80070000#64) = .ok (.setPixel 3#8 2#8 0xFF#8 0x80#8 7#8) ∧
  decode (.word 0x0400000A141E0000#64) = .ok (.setAll 10#8 20#8 30#8) ∧
  decode (.word 0x080000000000010E#64) = .ok (.setRotation 270#16) ∧
  decode (.word 0x1950E08000000000#64) = .ok (.frame [0x80#8, 0x00#8] (some 224#8)) ∧
  decode (.word 0x192000CC00000000#64) = .ok (.frame [0xCC#8] none) ∧
  decode (.wire [0xCC#8]) = .ok .softReset ∧
  decode (.wire [0x37#8, 0x20#8]) = .ok (.globalBrightness 0x20#8) ∧
  decode (.wire [0x42#8, 0xFF#8, 0xFE#8, 0xFD#8, 0xFC#8]) = .ok (.rowPinCtrl 0xFF#8 0xFE#8 0xFD#8 0xFC#8)

/-- The decoder takes exactly the host command words that R99 does not call illegal. -/
def Obligations.OnlyLegalWordsAreDecoded : Prop :=
  ∀ w : Hcw, (∃ i, decodeWord w = .ok i) ↔ LegalWord w

/-- R99: an illegal host command word, taken by a ready core, is answered InvalidArgument with DATA 0, changes no state and
emits nothing. A FRAME with a payload length above 224 is no illegal word: its encoding is legal, and the operation itself
answers the same status. -/
def Obligations.IllegalWordsAreAnsweredInvalidArgument : Prop :=
  (∀ (s : State) (w : Hcw) (rest : List Request),
    s.inited = true → s.hung = false → s.resetLine = .idle → s.pending = .word w :: rest → ¬ LegalWord w →
    step s = .next { s with pending := rest, responses := s.responses ++ [0x0200000000#40] }) ∧
  (∀ (s : State) (cmd : List Byte) (len : Byte),
    s.inited = true → s.hung = false → 1 ≤ cmd.length → cmd.length ≤ 5 → 224 < len.toNat →
    (∃ w, encode (.frame cmd (some len)) = .word w ∧ LegalWord w) ∧
    exec (.frame cmd (some len)) s = .next { s with responses := s.responses ++ [0x0200000000#40] })

/-! ## A step -/

/-- A step runs the decoded instruction: reset idle, no operation hung, the oldest request decodes and is accepted; it leaves
the list of requests and the rest of the step is exec. (That a wire command can be a request, and is taken in UNINIT too, is
the model's choice, assumption 5.) -/
def Obligations.StepRunsTheDecodedInstruction : Prop :=
  ∀ (s : State) (r : Request) (rest : List Request) (i : Instr),
    s.resetLine = .idle → s.hung = false → s.pending = r :: rest → decode r = .ok i →
    (s.inited = true ∨ i = .init ∨ IsWireCommand i = true) →
    step s = exec i { s with pending := rest }

/-- R252: in UNINIT the host port accepts only INIT. A word with another operation code stays where it is and nothing
changes; the INIT word is taken and run; and no host operation other than INIT has an effect in UNINIT. -/
def Obligations.UninitTakesOnlyInit : Prop :=
  (∀ (s : State) (w : Hcw) (rest : List Request),
    s.inited = false → s.hung = false → s.resetLine = .idle → s.pending = .word w :: rest →
    (w.toNat / 2 ^ 56 ≠ 0x1B → step s = .next s) ∧
    (w = 0x1B00000000000000#64 → step s = exec .init { s with pending := rest })) ∧
  (∀ (i : Instr) (s : State), s.inited = false → IsWireCommand i = false → i ≠ .init → exec i s = .next s)

/-- The model's own choices about what stays on the host's and the transport's side: in UNINIT a word with INIT's operation
code and a must-be-zero bit set is no INIT and stays where it is (assumption 6); a reset between operations, or of a hung one,
leaves the requests, the coming answers and the record of the responses as they are (assumption 8); and a core with nothing
issued waits (assumption 17). -/
def Obligations.HeldRequestsStayWithTheHost : Prop :=
  (∀ (s : State) (w : Hcw) (rest : List Request),
    s.inited = false → s.hung = false → s.resetLine = .idle → s.pending = .word w :: rest →
    w.toNat / 2 ^ 56 = 0x1B → w.toNat % 2 ^ 56 ≠ 0 → step s = .next s) ∧
  (∀ s : State, s.resetLine = .asserted ∨ (s.hung = true ∧ s.resetLine ≠ .idle) →
    ∃ t, step s = .next t ∧ t.pending = s.pending ∧ t.answers = s.answers ∧ t.responses = s.responses) ∧
  (∀ s : State, s.resetLine = .idle → s.pending = [] → step s = .next s)

/-- R250: an operation whose frame the transport never answers does not end. No response word appears, the core accepts
nothing more, and only reset ends this state. -/
def Obligations.HungCoreWaitsForReset : Prop :=
  (∀ (i : Instr) (s t : State), s.hung = false → exec i s = .next t → t.hung = true → t.responses = s.responses) ∧
  (∀ s : State, s.hung = true → s.resetLine = .idle → step s = .next s) ∧
  (∀ (i : Instr) (s : State), s.hung = true → exec i s = .next s) ∧
  (∀ s : State, s.resetLine ≠ .idle → ∃ t, step s = .next t ∧ t.hung = false)

/-- From every state a step answers some next state, so no step ends in a fault or a refusal; which state it is, the other
statements say. That there is a next state at all is in part the model's form: for a hung core and for a word that is not
accepted R250 and R252 give no step, and the model answers the same state (assumptions 7 and 6); so it does with nothing issued
(assumption 17); reset is a step (assumption 8); and what comes to the framer's command input is run or sent (assumptions 5
and 14). -/
def Obligations.NoStepStopsTheMachine : Prop :=
  ∀ s : State, SafeStep s

/-! ## Reset -/

/-- R38: what every piece of state holds after reset (the spec's decision D16; BRI is the open parameter BRI_RESET). -/
def Obligations.ResetStateHoldsTheSpecValues : Prop :=
  (∀ i, State.reset.pixel i = ⟨0#6, 0#6, 0#6⟩) ∧ State.reset.rot = .r0 ∧ State.reset.flipX = false ∧
  State.reset.flipY = false ∧ State.reset.bri = Config.params.briReset ∧ State.reset.inited = false ∧
  ∀ a, State.reset.phys.read a = 0#8

/-- R271: reset, asserted between operations or during one, sets every piece of state to its value of R38 (the spec's decision
D16), abandons an operation in progress, hung or not, and sends nothing of its own. How reset is asserted and released, and
that it keeps the requests, the answers and the records, is the model's choice (assumption 8): a reset during the next
operation comes after k of its frames; the frames up to then are those the operation would have presented, none follows, and
the operation has its response word only if it had ended by then. -/
def Obligations.ResetInterfaceRestoresTheCore : Prop :=
  (∀ s : State, s.resetLine ≠ .idle →
    ∃ t, step s = .next t ∧ (∀ i, t.pixel i = ⟨0#6, 0#6, 0#6⟩) ∧ t.rot = .r0 ∧ t.flipX = false ∧ t.flipY = false ∧
      t.bri = Config.params.briReset ∧ t.inited = false ∧ (∀ a, t.phys.read a = 0#8) ∧ t.hung = false ∧
      t.resetLine = .idle ∧ (s.resetLine = .asserted → t.wire = s.wire)) ∧
  ∀ (s u : State) (k : Nat), s.resetLine = .during k → step { s with resetLine := .idle } = .next u →
    ∃ t es, step s = .next t ∧ u.wire = s.wire ++ es ∧ t.wire = s.wire ++ es.take k ∧ t.pending = u.pending ∧
      t.answers = s.answers.drop (es.take k).length ∧
      (k ≤ es.length → t.responses = s.responses) ∧ (es.length < k → t.responses = u.responses)

/-! ## The invariant -/

/-- The invariant holds at reset. The two clauses about PHYS rest on R38; the clauses about the responses, the frames, the
requests and a hung operation rest on the reset values of the model's own fields, which are its choice (assumption 4). -/
def Obligations.ResetStateMeetsTheInvariant : Prop :=
  State.reset.Inv

/-- R39 as an invariant of the step relation: from every state that meets it, every step leads to a state that meets it.
PHYS keeps its canonical form and its bytes stay in [0, 63]; every response word is legal (R89); every frame has 1 to 229
bytes (R101); only a frame the transport never answered leaves an operation in progress (R250); and what waits at the framer's
command input has 1 to 5 bytes (R95, assumption 14). -/
def Obligations.StepKeepsTheInvariant : Prop :=
  ∀ s t : State, s.Inv → step s = .next t → t.Inv

/-! ## PHYS -/

/-- MemWrite and MemRead of R12: a byte written is read back, every other byte reads as before, and the canonical form is
kept. -/
def Obligations.PhysReadsBackWhatWasWritten : Prop :=
  ∀ (m : Memory) (a : PhysAddr) (v : Byte), m.wf →
    (m.write a v).wf ∧ ∀ b, (m.write a v).read b = if b = a then v else m.read b

/-- The canonical form is one for each content: two buffers in canonical form whose 448 bytes read alike are equal. -/
def Obligations.PhysCanonicalFormIsUnique : Prop :=
  ∀ m m' : Memory, m.wf → m'.wf → (∀ a, m.read a = m'.read a) → m = m'

/-! ## The logical grid -/

/-- R162, SET_PIXEL: with (x, y) in range, entry x × 7 + y of G holds the three channels shifted right by two, every other
entry is unchanged, and nothing else changes but the response OK; out of range it is InvalidPixel and nothing else. Its word
is OP 0x01, format C. -/
def Obligations.SetPixelStoresTheShiftedColour : Prop :=
  ∀ (x y r g b : Byte) (s : State), s.inited = true → s.hung = false →
    ((0 ≤ x.toInt ∧ x.toInt < 17 ∧ 0 ≤ y.toInt ∧ y.toInt < 7) →
      ∃ t, exec (.setPixel x y r g b) s = .next t ∧
        t = { s with grid := t.grid, responses := s.responses ++ [0x0000000000#40] } ∧
        (∀ i : PixelIndex, t.pixel i =
          if (i.val : Int) = x.toInt * 7 + y.toInt
          then ⟨(r >>> 2).setWidth 6, (g >>> 2).setWidth 6, (b >>> 2).setWidth 6⟩ else s.pixel i) ∧
        ∀ a, t.phys.read a = s.phys.read a) ∧
    (¬ (0 ≤ x.toInt ∧ x.toInt < 17 ∧ 0 ≤ y.toInt ∧ y.toInt < 7) →
      exec (.setPixel x y r g b) s = .next { s with responses := s.responses ++ [0x0100000000#40] }) ∧
    decodeWord (BitVec.ofNat 64 (0x01 * 2 ^ 56 + x.toNat * 2 ^ 48 + y.toNat * 2 ^ 40 + r.toNat * 2 ^ 32 +
      g.toNat * 2 ^ 24 + b.toNat * 2 ^ 16)) = .ok (.setPixel x y r g b)

/-- R163, GET_PIXEL: the stored 6-bit channels of entry x × 7 + y in DATA[23:16], [15:8] and [7:0], no state changed;
InvalidPixel out of range. Its word is OP 0x02, format P. -/
def Obligations.GetPixelReturnsTheStoredColour : Prop :=
  ∀ (x y : Byte) (s : State), s.inited = true → s.hung = false →
    (∀ i : PixelIndex, (0 ≤ x.toInt ∧ x.toInt < 17 ∧ 0 ≤ y.toInt ∧ y.toInt < 7) →
      (i.val : Int) = x.toInt * 7 + y.toInt →
      exec (.getPixel x y) s = .next { s with responses := s.responses ++
        [BitVec.ofNat 40 ((s.pixel i).r.toNat * 2 ^ 16 + (s.pixel i).g.toNat * 2 ^ 8 + (s.pixel i).b.toNat)] }) ∧
    (¬ (0 ≤ x.toInt ∧ x.toInt < 17 ∧ 0 ≤ y.toInt ∧ y.toInt < 7) →
      exec (.getPixel x y) s = .next { s with responses := s.responses ++ [0x0100000000#40] }) ∧
    decodeWord (BitVec.ofNat 64 (0x02 * 2 ^ 56 + x.toNat * 2 ^ 48 + y.toNat * 2 ^ 40)) = .ok (.getPixel x y)

/-- The round trip of R163: SET_PIXEL and then GET_PIXEL at the same position answers (r >> 2, g >> 2, b >> 2), whatever
was set at another position in between. -/
def Obligations.SetPixelThenGetPixelRoundTrip : Prop :=
  ∀ (x y r g b x' y' r' g' b' : Byte) (s : State), s.inited = true → s.hung = false →
    (0 ≤ x.toInt ∧ x.toInt < 17 ∧ 0 ≤ y.toInt ∧ y.toInt < 7) → (x, y) ≠ (x', y') →
    ∃ t, execAll [.setPixel x y r g b, .setPixel x' y' r' g' b', .getPixel x y] s = .next t ∧
      t.responses.getLast? = some (BitVec.ofNat 40
        (r.toNat / 4 * 2 ^ 16 + g.toNat / 4 * 2 ^ 8 + b.toNat / 4))

/-- R164, CLEAR_PIXEL: entry x × 7 + y of G becomes (0, 0, 0), every other entry is unchanged; InvalidPixel out of range.
Its word is OP 0x03, format P; its effect is that of SET_PIXEL x, y, 0, 0, 0. -/
def Obligations.ClearPixelStoresBlack : Prop :=
  ∀ (x y : Byte) (s : State), s.inited = true → s.hung = false →
    ((0 ≤ x.toInt ∧ x.toInt < 17 ∧ 0 ≤ y.toInt ∧ y.toInt < 7) →
      ∃ t, exec (.clearPixel x y) s = .next t ∧
        t = { s with grid := t.grid, responses := s.responses ++ [0x0000000000#40] } ∧
        (∀ i : PixelIndex, t.pixel i =
          if (i.val : Int) = x.toInt * 7 + y.toInt then ⟨0#6, 0#6, 0#6⟩ else s.pixel i) ∧
        ∀ a, t.phys.read a = s.phys.read a) ∧
    (¬ (0 ≤ x.toInt ∧ x.toInt < 17 ∧ 0 ≤ y.toInt ∧ y.toInt < 7) →
      exec (.clearPixel x y) s = .next { s with responses := s.responses ++ [0x0100000000#40] }) ∧
    exec (.clearPixel x y) s = exec (.setPixel x y 0#8 0#8 0#8) s ∧
    decodeWord (BitVec.ofNat 64 (0x03 * 2 ^ 56 + x.toNat * 2 ^ 48 + y.toNat * 2 ^ 40)) = .ok (.clearPixel x y)

/-- R165, SET_ALL: all 119 entries of G become (r >> 2, g >> 2, b >> 2), and nothing else changes but the response OK. Its
word is OP 0x04, format A. -/
def Obligations.SetAllFillsTheGrid : Prop :=
  ∀ (r g b : Byte) (s : State), s.inited = true → s.hung = false →
    (∃ t, exec (.setAll r g b) s = .next t ∧
      t = { s with grid := t.grid, responses := s.responses ++ [0x0000000000#40] } ∧
      (∀ i, t.pixel i = ⟨(r >>> 2).setWidth 6, (g >>> 2).setWidth 6, (b >>> 2).setWidth 6⟩) ∧
      ∀ a, t.phys.read a = s.phys.read a) ∧
    decodeWord (BitVec.ofNat 64 (0x04 * 2 ^ 56 + r.toNat * 2 ^ 32 + g.toNat * 2 ^ 24 + b.toNat * 2 ^ 16)) =
      .ok (.setAll r g b)

/-- R166, CLEAR: all 119 entries of G become (0, 0, 0); PHYS, the orientation and BRI are untouched and nothing is sent
(the spec's decision D28). Its word is OP 0x05, format N. -/
def Obligations.ClearBlackensTheGrid : Prop :=
  ∀ s : State, s.inited = true → s.hung = false →
    (∃ t, exec .clear s = .next t ∧
      t = { s with grid := t.grid, responses := s.responses ++ [0x0000000000#40] } ∧
      (∀ i, t.pixel i = ⟨0#6, 0#6, 0#6⟩) ∧ ∀ a, t.phys.read a = s.phys.read a) ∧
    decodeWord 0x0500000000000000#64 = .ok .clear

/-- R161 with R160, GET_OFFSET: DATA is the storage index x × 7 + y, no state changed; InvalidPixel out of range. Its word
is OP 0x06, format P. -/
def Obligations.GetOffsetReturnsTheStorageIndex : Prop :=
  ∀ (x y : Byte) (s : State), s.inited = true → s.hung = false →
    ((0 ≤ x.toInt ∧ x.toInt < 17 ∧ 0 ≤ y.toInt ∧ y.toInt < 7) →
      exec (.getOffset x y) s = .next { s with responses := s.responses ++
        [BitVec.ofNat 40 (x.toInt * 7 + y.toInt).toNat] }) ∧
    (¬ (0 ≤ x.toInt ∧ x.toInt < 17 ∧ 0 ≤ y.toInt ∧ y.toInt < 7) →
      exec (.getOffset x y) s = .next { s with responses := s.responses ++ [0x0100000000#40] }) ∧
    decodeWord (BitVec.ofNat 64 (0x06 * 2 ^ 56 + x.toNat * 2 ^ 48 + y.toNat * 2 ^ 40)) = .ok (.getOffset x y)

/-- R160: getOffset is injective over the 119 valid positions and onto [0, 118], with inverse x = s div 7, y = s mod 7. -/
def Obligations.GetOffsetIsABijection : Prop :=
  ∀ (x y : Int) (i : PixelIndex),
    getOffset x y = .ok i ↔ x = ((i.val / 7 : Nat) : Int) ∧ y = ((i.val % 7 : Nat) : Int)

/-- R103, the expansion of SET_ALL: SET_PIXEL at every position, x = 0 to 16 and y = 0 to 6, leaves the same state as one
SET_ALL, but for the response words (119 of them and one). -/
def Obligations.SetAllIsSetPixelEverywhere : Prop :=
  ∀ (r g b : Byte) (s : State), s.inited = true → s.hung = false →
    ∃ t u, exec (.setAll r g b) s = .next t ∧
      execAll ((List.range 119).map fun i => .setPixel (BitVec.ofNat 8 (i / 7)) (BitVec.ofNat 8 (i % 7)) r g b) s =
        .next u ∧
      u = { t with responses := s.responses ++ List.replicate 119 0x0000000000#40 }

/-! ## Orientation -/

/-- R129 with R127, RESOLVE: DATA is the canonical index of (x, y) under the current ROT, FLIPX and FLIPY, computed by
rotation, clamping and flips in this order; no state is changed; InvalidPixel out of range. Its word is OP 0x10,
format P. -/
def Obligations.ResolveReturnsTheCanonicalIndex : Prop :=
  ∀ (x y : Byte) (s : State), s.inited = true → s.hung = false →
    ((0 ≤ x.toInt ∧ x.toInt < 17 ∧ 0 ≤ y.toInt ∧ y.toInt < 7) →
      0 ≤ canonicalFormula s.rot s.flipX s.flipY x.toInt y.toInt ∧
      canonicalFormula s.rot s.flipX s.flipY x.toInt y.toInt ≤ 118 ∧
      exec (.resolve x y) s = .next { s with responses := s.responses ++
        [BitVec.ofNat 40 (canonicalFormula s.rot s.flipX s.flipY x.toInt y.toInt).toNat] }) ∧
    (¬ (0 ≤ x.toInt ∧ x.toInt < 17 ∧ 0 ≤ y.toInt ∧ y.toInt < 7) →
      exec (.resolve x y) s = .next { s with responses := s.responses ++ [0x0100000000#40] }) ∧
    decodeWord (BitVec.ofNat 64 (0x10 * 2 ^ 56 + x.toNat * 2 ^ 48 + y.toNat * 2 ^ 40)) = .ok (.resolve x y)

/-- R128 (b), (c) and (d): with rotation 0 and no flips resolvePosition is getOffset; rotation 180 with flips (fx, fy) is
rotation 0 with flips (!fx, !fy); and for both, whatever the flips, every canonical index is that of exactly one position. -/
def Obligations.UprightRotationsAreBijective : Prop :=
  (∀ x y : Int, resolvePosition x y .r0 false false = getOffset x y) ∧
  (∀ (x y : Int) (fx fy : Bool), resolvePosition x y .r180 fx fy = resolvePosition x y .r0 (!fx) (!fy)) ∧
  ∀ (rot : Rotation) (fx fy : Bool) (c : PixelIndex), rot = .r0 ∨ rot = .r180 →
    ∃ x y, resolvePosition x y rot fx fy = .ok c ∧
      ∀ x' y', resolvePosition x' y' rot fx fy = .ok c → x' = x ∧ y' = y

/-- R128 (e) and (f): where two positions share a canonical index. Under rotation 90 exactly where their rows y agree and
their columns agree, are both 0 or 1, or are both 7 or more; under rotation 270 exactly where their rows agree or are both 0
or 1, and their columns agree or are both 6 or more. -/
def Obligations.LossyRotationsCollideAsStated : Prop :=
  ∀ (fx fy : Bool) (x y x' y' : Int) (c c' : PixelIndex),
    (resolvePosition x y .r90 fx fy = .ok c → resolvePosition x' y' .r90 fx fy = .ok c' →
      (c = c' ↔ y = y' ∧ (x = x' ∨ (x ≤ 1 ∧ x' ≤ 1) ∨ (7 ≤ x ∧ 7 ≤ x')))) ∧
    (resolvePosition x y .r270 fx fy = .ok c → resolvePosition x' y' .r270 fx fy = .ok c' →
      (c = c' ↔ (y = y' ∨ (y ≤ 1 ∧ y' ≤ 1)) ∧ (x = x' ∨ (6 ≤ x ∧ 6 ≤ x'))))

/-- R128 (e) and (f): rotation 90 reaches exactly 49 canonical indices and rotation 270 exactly 42, in [0, 48] and
[77, 118] without flipX, in [70, 118] and [0, 41] with it. -/
def Obligations.LossyRotationsReachFewIndices : Prop :=
  ∀ fx fy : Bool,
    ((List.finRange 119).map (laneIndex .r90 fx fy)).dedup.length = 49 ∧
    ((List.finRange 119).map (laneIndex .r270 fx fy)).dedup.length = 42 ∧
    ∀ i : PixelIndex,
      (if fx then 70 ≤ (laneIndex .r90 fx fy i).val else (laneIndex .r90 fx fy i).val ≤ 48) ∧
      (if fx then (laneIndex .r270 fx fy i).val ≤ 41 else 77 ≤ (laneIndex .r270 fx fy i).val)

/-- R130, SET_ROTATION: 0, 90, 180 and 270 are stored and answered OK; every other operand is InvalidArgument and ROT keeps
its value; nothing else changes either way. Its word is OP 0x08, format I. -/
def Obligations.SetRotationValidatesItsOperand : Prop :=
  ∀ (deg : BitVec 16) (s : State), s.inited = true → s.hung = false →
    (deg.toNat = 0 → exec (.setRotation deg) s =
      .next { s with rot := .r0, responses := s.responses ++ [0x0000000000#40] }) ∧
    (deg.toNat = 90 → exec (.setRotation deg) s =
      .next { s with rot := .r90, responses := s.responses ++ [0x0000000000#40] }) ∧
    (deg.toNat = 180 → exec (.setRotation deg) s =
      .next { s with rot := .r180, responses := s.responses ++ [0x0000000000#40] }) ∧
    (deg.toNat = 270 → exec (.setRotation deg) s =
      .next { s with rot := .r270, responses := s.responses ++ [0x0000000000#40] }) ∧
    (deg.toNat ≠ 0 → deg.toNat ≠ 90 → deg.toNat ≠ 180 → deg.toNat ≠ 270 →
      exec (.setRotation deg) s = .next { s with responses := s.responses ++ [0x0200000000#40] }) ∧
    decodeWord (BitVec.ofNat 64 (0x08 * 2 ^ 56 + deg.toNat)) = .ok (.setRotation deg)

/-- R131, GET_ROTATION: DATA is ROT in degrees and nothing changes. Its word is OP 0x09, format N. -/
def Obligations.GetRotationReturnsDegrees : Prop :=
  ∀ s : State, s.inited = true → s.hung = false →
    (s.rot = .r0 → exec .getRotation s = .next { s with responses := s.responses ++ [0#40] }) ∧
    (s.rot = .r90 → exec .getRotation s = .next { s with responses := s.responses ++ [90#40] }) ∧
    (s.rot = .r180 → exec .getRotation s = .next { s with responses := s.responses ++ [180#40] }) ∧
    (s.rot = .r270 → exec .getRotation s = .next { s with responses := s.responses ++ [270#40] }) ∧
    decodeWord 0x0900000000000000#64 = .ok .getRotation

/-- R132 and R133, FLIP_X and FLIP_Y: each inverts its flag and answers OK, and nothing else changes (the spec's decision
D7). Their words are OP 0x0A and 0x0B, format N. -/
def Obligations.FlipsInvertTheirFlag : Prop :=
  ∀ s : State, s.inited = true → s.hung = false →
    exec .flipX s = .next { s with flipX := !s.flipX, responses := s.responses ++ [0x0000000000#40] } ∧
    exec .flipY s = .next { s with flipY := !s.flipY, responses := s.responses ++ [0x0000000000#40] } ∧
    decodeWord 0x0A00000000000000#64 = .ok .flipX ∧ decodeWord 0x0B00000000000000#64 = .ok .flipY

/-! ## Brightness and the LUT -/

/-- R220, SET_BRIGHTNESS: BRI becomes the code, OK is answered, nothing is sent (the spec's decision D8). Its word is OP
0x0C, format I, with IMM[15:6] = 0; with IMM[15:6] ≠ 0 the word is illegal. -/
def Obligations.SetBrightnessStoresTheCode : Prop :=
  (∀ (code : Brightness) (s : State), s.inited = true → s.hung = false →
    exec (.setBrightness code) s = .next { s with bri := code, responses := s.responses ++ [0x0000000000#40] } ∧
    decodeWord (BitVec.ofNat 64 (0x0C * 2 ^ 56 + code.toNat)) = .ok (.setBrightness code)) ∧
  ∀ imm : BitVec 16, 64 ≤ imm.toNat → decodeWord (BitVec.ofNat 64 (0x0C * 2 ^ 56 + imm.toNat)) = .error .reservedBits

/-- R221, GET_BRIGHTNESS: DATA is BRI and nothing changes. Its word is OP 0x0D, format N. -/
def Obligations.GetBrightnessReturnsTheCode : Prop :=
  ∀ s : State, s.inited = true → s.hung = false →
    exec .getBrightness s = .next { s with responses := s.responses ++ [BitVec.ofNat 40 s.bri.toNat] } ∧
    decodeWord 0x0D00000000000000#64 = .ok .getBrightness

/-- R152, LOOKUP: for c below 119 DATA holds the three offsets of LUT[c] in [26:18], [17:9] and [8:0]; for c ≥ 119 it is
InvalidPixel (the spec's decision D20); no state changes. Its word is OP 0x11, format I. -/
def Obligations.LookupReturnsTheOffsets : Prop :=
  ∀ (c : BitVec 16) (s : State), s.inited = true → s.hung = false →
    (∀ i : PixelIndex, i.val = c.toNat → exec (.lookup c) s = .next { s with responses := s.responses ++
      [BitVec.ofNat 40 ((Config.params.lut i).rOff.val * 2 ^ 18 + (Config.params.lut i).gOff.val * 2 ^ 9 +
        (Config.params.lut i).bOff.val)] }) ∧
    (119 ≤ c.toNat → exec (.lookup c) s = .next { s with responses := s.responses ++ [0x0100000000#40] }) ∧
    decodeWord (BitVec.ofNat 64 (0x11 * 2 ^ 56 + c.toNat)) = .ok (.lookup c)

/-! ## RENDER -/

/-- R167, RENDER: every byte of PHYS becomes the value of the last of the 357 writes that hits it, 0 where none does. The
writes come in ascending storage index, red, green, blue, to the offsets the LUT gives the canonical index that
resolvePosition gives x = s div 7, y = s mod 7. OK is answered, nothing is sent, nothing else changes. Its word is OP 0x18,
format N. (The order of the scan is the spec's decision D9, assumption 10.) -/
def Obligations.RenderRebuildsThePhysicalBuffer : Prop :=
  ∀ s : State, s.inited = true → s.hung = false →
    (∃ t, exec .render s = .next t ∧
      t = { s with phys := t.phys, responses := s.responses ++ [0x0000000000#40] } ∧
      ∀ a, t.phys.read a = lastWrite (renderWrites Config.params.lut s) a) ∧
    (∀ i : PixelIndex, resolvePosition ((i.val / 7 : Nat) : Int) ((i.val % 7 : Nat) : Int) s.rot s.flipX s.flipY =
      .ok (laneIndex s.rot s.flipX s.flipY i)) ∧
    decodeWord 0x1800000000000000#64 = .ok .render

/-- R168 (c) and (d), for every table with LUT_INJECTIVE: among the pixels that share a canonical index, the one with the
largest storage index has its three channels in PHYS. For rotations 0 and 180 that is every pixel. -/
def Obligations.RenderKeepsTheLargestStorageIndex : Prop :=
  ∀ (lut : Lut) (s : State) (i : PixelIndex), LutInjective lut →
    (∀ j : PixelIndex, i < j → laneIndex s.rot s.flipX s.flipY j ≠ laneIndex s.rot s.flipX s.flipY i) →
    (renderWith lut s).phys.read (lut (laneIndex s.rot s.flipX s.flipY i)).rOff = (s.pixel i).r.setWidth 8 ∧
    (renderWith lut s).phys.read (lut (laneIndex s.rot s.flipX s.flipY i)).gOff = (s.pixel i).g.setWidth 8 ∧
    (renderWith lut s).phys.read (lut (laneIndex s.rot s.flipX s.flipY i)).bOff = (s.pixel i).b.setWidth 8

/-- R168 (c): for rotation 0 or 180 and a table with LUT_INJECTIVE, the result does not depend on the order of the scan:
every permutation of the storage indices builds the same buffer. -/
def Obligations.UprightRenderIgnoresTheScanOrder : Prop :=
  ∀ (lut : Lut) (order : List PixelIndex) (g : Grid) (rot : Rotation) (fx fy : Bool), LutInjective lut →
    rot = .r0 ∨ rot = .r180 → order.Perm (List.finRange 119) →
    renderBuffer lut order g rot fx fy = renderBuffer lut Config.renderOrder g rot fx fy

/-- R168 (a) and (b), for every table and every scan order: a black grid renders to a buffer of zeros, and a byte that is no
offset of an index the scan reaches is 0. -/
def Obligations.RenderWritesNothingElse : Prop :=
  ∀ (lut : Lut) (order : List PixelIndex) (g : Grid) (rot : Rotation) (fx fy : Bool),
    ((∀ i, g.get i = ⟨0#6, 0#6, 0#6⟩) → ∀ a, (renderBuffer lut order g rot fx fy).read a = 0#8) ∧
    ∀ a, (∀ i ∈ order, (lut (laneIndex rot fx fy i)).rOff ≠ a ∧ (lut (laneIndex rot fx fy i)).gOff ≠ a ∧
        (lut (laneIndex rot fx fy i)).bOff ≠ a) →
      (renderBuffer lut order g rot fx fy).read a = 0#8

/-- R168 (e) and R58: RENDER is a function of G, ROT, FLIPX, FLIPY and LUT alone: from two states that differ only in PHYS
it leads to the same state; and a second RENDER leaves the PHYS of the first. -/
def Obligations.RenderIgnoresTheOldBuffer : Prop :=
  ∀ (s : State) (m : Memory), s.inited = true → s.hung = false →
    ∃ t u, exec .render s = .next t ∧ exec .render { s with phys := m } = .next t ∧
      exec .render t = .next u ∧ u.phys = t.phys

/-! ## Frames on the links -/

/-- R191, R192 and R193, and what R205 derives from them, the function frame: without a payload both frames are the command bytes; a buffer of 448
bytes and a payload length n ≤ 224 give two frames of len(cmd) + n bytes that begin with the command bytes; link k's payload
is the n bytes from BASE[k] on; and for n = 224 the two payloads together are the buffer, with no overlap and no gap. -/
def Obligations.FrameSplitsTheBuffer : Prop :=
  (∀ cmd : List Byte, frame cmd none = (cmd, cmd)) ∧
  ∀ (cmd buf : List Byte) (n : Nat), buf.length = 448 → n ≤ 224 →
    let f := frame cmd (some (buf, n))
    f.1.length = cmd.length + n ∧ f.2.length = cmd.length + n ∧
    f.1.take cmd.length = cmd ∧ f.2.take cmd.length = cmd ∧
    (∀ j, j < n → f.1[cmd.length + j]? = buf[j]? ∧ f.2[cmd.length + j]? = buf[224 + j]?) ∧
    (n = 224 → f.1.drop cmd.length ++ f.2.drop cmd.length = buf)

/-- FRAME with both frames taken (R195): link 0 and then link 1 get the command bytes, followed, where there is a payload of
LEN ≤ 224, by that many bytes of their half of PHYS; OK is answered and nothing else changes. -/
def Obligations.FrameSendsCommandAndPayload : Prop :=
  ∀ (cmd : List Byte) (payload : Option Byte) (s : State), s.inited = true → s.hung = false →
    (∀ len, payload = some len → len.toNat ≤ 224) → s.answerAt 0 = .success → s.answerAt 1 = .success →
    exec (.frame cmd payload) s = .next { s with
      answers := s.answers.drop 2
      wire := s.wire ++ (framePlan cmd payload s.phys).map fun f => ⟨f.1, f.2, .success⟩
      responses := s.responses ++ [0x0000000000#40] }

/-- R195, FRAME, whatever the transport answers (R196): link 0 and then link 1 get the command bytes and, where there is a
payload, the first LEN bytes of their half of PHYS. The frames are presented in link order up to the first that is not
taken; OK is answered after both, TransferError after a refused one, link 1 not being written after a failure on link 0 (the
spec's decision D12); a frame that is never answered leaves the operation in progress with no response. With LEN above 224
it is InvalidArgument and nothing is sent (decision D11). No other state changes. Its word is OP 0x19, format F. -/
def Obligations.FrameStopsAtTheFirstRefusedFrame : Prop :=
  ∀ (cmd : List Byte) (payload : Option Byte) (s : State), s.inited = true → s.hung = false →
    ((∀ len, payload = some len → len.toNat ≤ 224) →
      let plan := framePlan cmd payload s.phys
      ∃ t, exec (.frame cmd payload) s = .next t ∧
        t = { s with answers := t.answers, wire := t.wire, responses := t.responses, hung := t.hung } ∧
        t.wire = s.wire ++ presented plan s.answerAt ∧
        t.answers = s.answers.drop (presented plan s.answerAt).length ∧
        (ending plan s.answerAt = .success → t.hung = false ∧ t.responses = s.responses ++ [0x0000000000#40]) ∧
        (ending plan s.answerAt = .failure → t.hung = false ∧ t.responses = s.responses ++ [0x0300000000#40]) ∧
        (ending plan s.answerAt = .never → t.hung = true ∧ t.responses = s.responses)) ∧
    (∀ len, payload = some len → 224 < len.toNat →
      exec (.frame cmd payload) s = .next { s with responses := s.responses ++ [0x0200000000#40] }) ∧
    (1 ≤ cmd.length → cmd.length ≤ 5 →
      decodeWord (BitVec.ofNat 64 (0x19 * 2 ^ 56 + cmd.length * 2 ^ 53 + (if payload.isSome then 1 else 0) * 2 ^ 52 +
        (payload.getD 0#8).toNat * 2 ^ 40 + (cmd.getD 0 0#8).toNat * 2 ^ 32 + (cmd.getD 1 0#8).toNat * 2 ^ 24 +
        (cmd.getD 2 0#8).toNat * 2 ^ 16 + (cmd.getD 3 0#8).toNat * 2 ^ 8 + (cmd.getD 4 0#8).toNat)) =
        .ok (.frame cmd payload))

/-! ## SHOW and INIT -/

/-- SHOW with every frame taken (R223): PHYS is what RENDER leaves; then `80 WD_ADDR` with that half of PHYS on link 0 and on
link 1, then `37 BRI` on both; OK is answered and nothing else changes. -/
def Obligations.ShowRendersThenSends : Prop :=
  ∀ s : State, s.inited = true → s.hung = false → (∀ k, k < 4 → s.answerAt k = .success) →
    ∃ t r, exec .showDisplay s = .next t ∧ exec .render s = .next r ∧
      t = { r with
        answers := s.answers.drop 4
        wire := s.wire ++ (showPlan Config.params r.phys s.bri).map fun f => ⟨f.1, f.2, .success⟩ }

/-- R223, SHOW, whatever the transport answers: PHYS is what RENDER leaves, and keeps that even when the operation fails;
then `80 WD_ADDR` with that half of PHYS on link 0 and on link 1, then `37 BRI` on both. The frames up to the first that is
not taken are presented and no later one (R226); OK is answered after the fourth, TransferError after a refused frame; a
frame never answered leaves the operation in progress; nothing else changes. Its word is OP 0x1A, format N. -/
def Obligations.ShowStopsAtTheFirstRefusedFrame : Prop :=
  (∀ s : State, s.inited = true → s.hung = false →
    ∃ t r, exec .showDisplay s = .next t ∧ exec .render s = .next r ∧
      t = { s with
        phys := r.phys, answers := t.answers, wire := t.wire, responses := t.responses, hung := t.hung } ∧
      t.wire = s.wire ++ presented (showPlan Config.params r.phys s.bri) s.answerAt ∧
      t.answers = s.answers.drop (presented (showPlan Config.params r.phys s.bri) s.answerAt).length ∧
      (ending (showPlan Config.params r.phys s.bri) s.answerAt = .success →
        t.hung = false ∧ t.responses = s.responses ++ [0x0000000000#40]) ∧
      (ending (showPlan Config.params r.phys s.bri) s.answerAt = .failure →
        t.hung = false ∧ t.responses = s.responses ++ [0x0300000000#40]) ∧
      (ending (showPlan Config.params r.phys s.bri) s.answerAt = .never →
        t.hung = true ∧ t.responses = s.responses)) ∧
  decodeWord 0x1A00000000000000#64 = .ok .showDisplay

/-- R103, the expansion of SHOW: with every frame taken, SHOW leaves the state of RENDER; FRAME [0x80, WD_ADDR], 224;
FRAME [0x37, BRI], but for the response words (one, and three). -/
def Obligations.ShowIsRenderAndTwoFrames : Prop :=
  ∀ s : State, s.inited = true → s.hung = false → (∀ k, k < 4 → s.answerAt k = .success) →
    ∃ t u, exec .showDisplay s = .next t ∧
      execAll [.render, .frame [0x80#8, Config.params.wdAddr] (some 224#8), .frame [0x37#8, s.bri.setWidth 8] none] s =
        .next u ∧
      u = { t with responses := s.responses ++ List.replicate 3 0x0000000000#40 }

/-- R225, INIT with every frame taken, in UNINIT and in READY alike: the eight commands, each on link 0 and then on link 1,
in the order of the table, step 5 with 224 zero bytes and not with PHYS; then INITED is 1 and OK is answered. G, PHYS, ROT,
FLIPX, FLIPY and BRI are not written. -/
def Obligations.InitSendsTheEightSteps : Prop :=
  ∀ s : State, s.hung = false → (∀ k, k < 16 → s.answerAt k = .success) →
    exec .init s = .next { s with
      inited := true
      answers := s.answers.drop 16
      wire := s.wire ++ (initPlan Config.params).map fun f => ⟨f.1, f.2, .success⟩
      responses := s.responses ++ [0x0000000000#40] }

/-- R224, INIT, in UNINIT and in READY alike and whatever the transport answers: the frames of the eight steps are presented
up to the first that is not taken (R226). INITED is 1 exactly when every frame was; a refused frame is answered
TransferError, a frame never answered leaves the operation in progress; nothing else changes. Its word is OP 0x1B,
format N. -/
def Obligations.InitStopsAtTheFirstRefusedFrame : Prop :=
  (∀ s : State, s.hung = false →
    let plan := initPlan Config.params
    ∃ t, exec .init s = .next t ∧
      t = { s with
        inited := t.inited, answers := t.answers, wire := t.wire, responses := t.responses, hung := t.hung } ∧
      t.wire = s.wire ++ presented plan s.answerAt ∧
      t.answers = s.answers.drop (presented plan s.answerAt).length ∧
      (ending plan s.answerAt = .success →
        t.inited = true ∧ t.hung = false ∧ t.responses = s.responses ++ [0x0000000000#40]) ∧
      (ending plan s.answerAt = .failure →
        t.inited = false ∧ t.hung = false ∧ t.responses = s.responses ++ [0x0300000000#40]) ∧
      (ending plan s.answerAt = .never →
        t.inited = false ∧ t.hung = true ∧ t.responses = s.responses)) ∧
  decodeWord 0x1B00000000000000#64 = .ok .init

/-- R254 and R273: the only step that leads from UNINIT to READY is one that takes the INIT word, sends its 16 frames, all
of them taken, and answers OK. -/
def Obligations.OnlyASuccessfulInitLeavesUninit : Prop :=
  ∀ s t : State, step s = .next t → s.inited = false → t.inited = true →
    s.pending = .word 0x1B00000000000000#64 :: t.pending ∧
    t.wire = s.wire ++ (initPlan Config.params).map (fun f => ⟨f.1, f.2, .success⟩) ∧
    t.responses = s.responses ++ [0x0000000000#40]

/-! ## Wire commands -/

/-- R197 to R200 and R202 to R204: a wire command without payload, run on its own, sends its opcode and its data bytes, the
same frame on link 0 and then, if that was taken, on link 1 (R196), and changes nothing else; a frame never answered leaves
it in progress. Bytes that are no wire command are sent in the same way, unchanged and unchecked (R98). The model's choices
are: that a wire command can be run on its own, and then gives no response word (assumption 5); that other bytes can come the
same way (assumption 14); that READ_DISPLAY has no data byte (assumption 15); and that GLOBAL_BRIGHTNESS takes codes above 63
(assumption 19). -/
def Obligations.WireCommandsAreSentOnBothLinks : Prop :=
  (∀ (a b c d : Byte) (s : State), s.hung = false →
    ∀ p ∈ [(Instr.softReset, [0xCC#8]), (Instr.globalBrightness a, [0x37#8, a]), (Instr.comPinCtrl a, [0x41#8, a]),
        (Instr.rowPinCtrl a b c d, [0x42#8, a, b, c, d]), (Instr.readDisplay, [0x81#8]),
        (Instr.systemCtrl a, [0x35#8, a]), (Instr.scrollCtrl a, [0x20#8, a])],
      exec p.1 s = .next { s with
        answers := s.answers.drop (presented (onBothLinks p.2) s.answerAt).length
        wire := s.wire ++ presented (onBothLinks p.2) s.answerAt
        hung := decide (ending (onBothLinks p.2) s.answerAt = .never) } ∧
      decode (.wire p.2) = .ok p.1) ∧
  ∀ (s : State) (bytes : List Byte) (rest : List Request) (e : DecodeError),
    s.hung = false → s.resetLine = .idle → s.pending = .wire bytes :: rest → decode (.wire bytes) = .error e →
    step s = .next { s with
      pending := rest
      answers := s.answers.drop (presented (onBothLinks bytes) s.answerAt).length
      wire := s.wire ++ presented (onBothLinks bytes) s.answerAt
      hung := decide (ending (onBothLinks bytes) s.answerAt = .never) }

/-- R201: WRITE_DISPLAY, run on its own, sends `80 aa` and the link's 224 bytes of PHYS on link 0 and then, if that frame was
taken, on link 1, and changes nothing else; a frame never answered leaves it in progress (assumption 5). -/
def Obligations.WriteDisplaySendsPhys : Prop :=
  ∀ (a : Byte) (s : State), s.hung = false →
    let plan := framePlan [0x80#8, a] (some 224#8) s.phys
    exec (.writeDisplay a) s = .next { s with
      answers := s.answers.drop (presented plan s.answerAt).length
      wire := s.wire ++ presented plan s.answerAt
      hung := decide (ending plan s.answerAt = .never) } ∧
    decode (.wire [0x80#8, a]) = .ok (.writeDisplay a)

/-! ## The whole machine -/

/-- R58, the frame of the queries: GET_PIXEL, GET_ROTATION, GET_BRIGHTNESS, GET_OFFSET, RESOLVE and LOOKUP change nothing
but the response words, to which they add one, and answered twice in a row they answer the same. -/
def Obligations.QueriesChangeNothing : Prop :=
  ∀ (x y : Byte) (c : BitVec 16) (s : State), s.inited = true → s.hung = false →
    ∀ i ∈ [Instr.getPixel x y, .getRotation, .getBrightness, .getOffset x y, .resolve x y, .lookup c],
      ∃ w, exec i s = .next { s with responses := s.responses ++ [w] } ∧
        execAll [i, i] s = .next { s with responses := s.responses ++ [w, w] }

/-- R23, R31 and R25 to R29, over all instructions: which instruction can write which piece of state. G: SET_PIXEL,
CLEAR_PIXEL, SET_ALL, CLEAR. PHYS: RENDER, and SHOW by its render step. ROT: SET_ROTATION. FLIPX: FLIP_X. FLIPY: FLIP_Y.
BRI: SET_BRIGHTNESS. INITED: INIT. -/
def Obligations.EachPieceOfStateHasItsWriters : Prop :=
  ∀ (i : Instr) (s t : State), exec i s = .next t →
    (t.grid ≠ s.grid → (∃ x y r g b, i = .setPixel x y r g b) ∨ (∃ x y, i = .clearPixel x y) ∨
      (∃ r g b, i = .setAll r g b) ∨ i = .clear) ∧
    (t.phys ≠ s.phys → i = .render ∨ i = .showDisplay) ∧
    (t.rot ≠ s.rot → ∃ deg, i = .setRotation deg) ∧
    (t.flipX ≠ s.flipX → i = .flipX) ∧ (t.flipY ≠ s.flipY → i = .flipY) ∧
    (t.bri ≠ s.bri → ∃ code, i = .setBrightness code) ∧ (t.inited ≠ s.inited → i = .init) ∧
    t.pending = s.pending ∧ t.resetLine = s.resetLine

/-- R23: G is read by GET_PIXEL and RENDER alone (and SHOW by its render step). For every other instruction two states that
differ only in G lead to states that differ at most in G. -/
def Obligations.GridIsReadOnlyByGetPixelAndRender : Prop :=
  ∀ (i : Instr) (s t : State) (g : Grid), (∀ x y, i ≠ .getPixel x y) → i ≠ .render → i ≠ .showDisplay →
    exec i s = .next t → ∃ u, exec i { s with grid := g } = .next u ∧ u = { t with grid := u.grid }

/-- R31: PHYS is read through the link splitter alone. For every instruction other than FRAME with a payload and
WRITE_DISPLAY two states that differ only in PHYS lead to states that differ at most in PHYS (SHOW reads only the PHYS it
has itself rendered). -/
def Obligations.PhysIsReadOnlyByTheFramer : Prop :=
  ∀ (i : Instr) (s t : State) (m : Memory), (∀ cmd len, i ≠ .frame cmd (some len)) → (∀ a, i ≠ .writeDisplay a) →
    exec i s = .next t → ∃ u, exec i { s with phys := m } = .next u ∧ u = { t with phys := u.phys }

/-- R89 over all host operations, INIT in UNINIT among them: one that ends adds exactly one response word, and that word is
legal, STATUS 0 to 3, and DATA 0 when STATUS is not 0; one that does not end adds none. -/
def Obligations.EveryHostOperationAnswersOnce : Prop :=
  ∀ (i : Instr) (s t : State), (s.inited = true ∨ i = .init) → s.hung = false → IsWireCommand i = false →
    exec i s = .next t →
    (t.hung = false → ∃ w, t.responses = s.responses ++ [w] ∧ LegalResponse w) ∧
    (t.hung = true → t.responses = s.responses)

/-- R241 and R243, with R242 (a) and (b), over all host operations: InvalidPixel comes exactly from an operation with
coordinates out of range or LOOKUP of an index above 118 (the spec's decision D20); InvalidArgument exactly from
SET_ROTATION of no legal rotation and FRAME of more than 224 bytes (decision D11); and TransferError exactly from FRAME, SHOW
and INIT, after a frame that was refused. -/
def Obligations.EachErrorHasItsCauses : Prop :=
  ∀ (i : Instr) (s t : State), (s.inited = true ∨ i = .init) → s.hung = false → IsWireCommand i = false →
    exec i s = .next t →
    (t.responses = s.responses ++ [0x0100000000#40] ↔
      (∃ x y, ((∃ r g b, i = .setPixel x y r g b) ∨ i = .getPixel x y ∨ i = .clearPixel x y ∨ i = .getOffset x y ∨
          i = .resolve x y) ∧ ¬ (0 ≤ x.toInt ∧ x.toInt < 17 ∧ 0 ≤ y.toInt ∧ y.toInt < 7)) ∨
      (∃ c, i = .lookup c ∧ 119 ≤ c.toNat)) ∧
    (t.responses = s.responses ++ [0x0200000000#40] ↔
      (∃ deg, i = .setRotation deg ∧ deg.toNat ∉ [0, 90, 180, 270]) ∨
      (∃ cmd len, i = .frame cmd (some len) ∧ 224 < len.toNat)) ∧
    (t.responses = s.responses ++ [0x0300000000#40] ↔
      ((∃ cmd payload, i = .frame cmd payload) ∨ i = .showDisplay ∨ i = .init) ∧
      ∃ es e, t.wire = s.wire ++ es ∧ es.getLast? = some e ∧ e.answer = .failure)

/-- R248: after an error response the core's state is unchanged, but that SHOW leaves the freshly rendered PHYS and INIT
leaves INITED 0; after TransferError the frames before the failing one were accepted, and no frame follows it; after any
other error nothing was sent. An illegal word changes nothing and sends nothing. -/
def Obligations.ErrorsLeaveTheCoreUnchanged : Prop :=
  (∀ (i : Instr) (s t : State) (w : Hrw), (s.inited = true ∨ i = .init) → s.hung = false → exec i s = .next t →
    t.responses = s.responses ++ [w] → w.toNat / 2 ^ 32 ≠ 0 →
    t.grid = s.grid ∧ t.rot = s.rot ∧ t.flipX = s.flipX ∧ t.flipY = s.flipY ∧ t.bri = s.bri ∧ t.hung = false ∧
    (i ≠ .init → t.inited = true) ∧ (i = .init → t.inited = false) ∧
    (i ≠ .showDisplay → t.phys = s.phys) ∧ (i = .showDisplay → ∃ r, exec .render s = .next r ∧ t.phys = r.phys) ∧
    (w = 0x0300000000#40 → ∃ es e, t.wire = s.wire ++ es ++ [e] ∧ (∀ f ∈ es, f.answer = .success) ∧ e.answer = .failure) ∧
    (w ≠ 0x0300000000#40 → t.wire = s.wire)) ∧
  ∀ (s : State) (w : Hcw) (rest : List Request),
    s.inited = true → s.hung = false → s.resetLine = .idle → s.pending = .word w :: rest → ¬ LegalWord w →
    step s = .next { s with pending := rest, responses := s.responses ++ [0x0200000000#40] }

/-- R64, with the order of R196, over the step relation, the steps that run a wire command or send other bytes on their own
(assumptions 5 and 14) among them: the frames a step adds come in the order link 0, link 1 for each command, the two of one
length (R205 (a)), and no frame follows one that was not answered success; a step adds at most 16 (R225); and it leaves an
operation in progress exactly when the last frame it added was never answered (R250). A step that reset cuts short after k
frames (assumption 8) adds the first of such frames, at most k. -/
def Obligations.StepEmitsInLinkOrder : Prop :=
  ∀ s t : State, step s = .next t → s.hung = false →
    ((∀ k, s.resetLine ≠ .during k) →
      ∃ es, t.wire = s.wire ++ es ∧ InLinkOrder es ∧ es.length ≤ 16 ∧ t.answers = s.answers.drop es.length ∧
        (t.hung = true ↔ ∃ e, es.getLast? = some e ∧ e.answer = .never)) ∧
    ∀ k, s.resetLine = .during k →
      ∃ es cut, t.wire = s.wire ++ es ∧ InLinkOrder (es ++ cut) ∧ (es ++ cut).length ≤ 16 ∧ es.length ≤ k ∧
        t.answers = s.answers.drop es.length

/-- R96 and R202: of its own accord, in SHOW and INIT, the core emits only frames that begin with one of the wire opcodes
0xCC, 0x37, 0x20, 0x35, 0x80, 0x41 and 0x42, never READ_DISPLAY; and no host operation but FRAME, SHOW and INIT emits at
all. -/
def Obligations.OnlyKnownCommandsAreEmitted : Prop :=
  ∀ (i : Instr) (s t : State), exec i s = .next t → IsWireCommand i = false → (∀ cmd payload, i ≠ .frame cmd payload) →
    ∃ es, t.wire = s.wire ++ es ∧ (es ≠ [] → i = .showDisplay ∨ i = .init) ∧
      ∀ e ∈ es, ∃ op data, e.bytes = op :: data ∧
        op ∈ [0xCC#8, 0x37#8, 0x20#8, 0x35#8, 0x80#8, 0x41#8, 0x42#8]
end

