-- ==== Sys2Proof/Laws/Encoding.lean ====
section
/-!
SUPPORT. What the decoder reads from a word, said through the word's number; and that decoding an encoding gives the
instruction back.
-/

namespace Sys2Proof.Laws

/-- A field of a word is a quotient and a remainder of the word's number. -/
theorem field_toNat (w : Hcw) (lo n : Nat) : (field w lo n).toNat = w.toNat / 2 ^ lo % 2 ^ n := by
  simp [field, BitVec.extractLsb'_toNat, Nat.shiftRight_eq_div_pow]

theorem field_eq {w : Hcw} {lo n : Nat} {v : BitVec n} (h : w.toNat / 2 ^ lo % 2 ^ n = v.toNat) : field w lo n = v :=
  BitVec.eq_of_toNat_eq (by rw [field_toNat, h])

theorem fieldsZero_iff (w : Hcw) (fs : List (Nat × Nat)) :
    fieldsZero w fs = true ↔ ∀ f ∈ fs, w.toNat / 2 ^ f.1 % 2 ^ f.2 = 0 := by
  simp [fieldsZero, field_toNat]

/-- Each operation is found by its code. -/
theorem hostOp_ofCode_code (op : HostOp) : HostOp.ofCode op.code = some op := by cases op <;> rfl

/-- A code finds only the operation that has it. -/
theorem code_of_hostOp_ofCode {c : Nat} {op : HostOp} (h : HostOp.ofCode c = some op) : op.code = c := by
  have := List.find?_some h
  simpa using this

theorem wireOp_ofCode_code (op : WireOp) : WireOp.ofCode op.code = some op := by cases op <;> rfl

theorem code_of_wireOp_ofCode {c : Byte} {op : WireOp} (h : WireOp.ofCode c = some op) : op.code = c := by
  have := List.find?_some h
  simpa using this

/-- A word with an operation's code and its must-be-zero fields 0 is decoded as that operation. -/
theorem decodeWord_of_code {w : Hcw} {op : HostOp} (hc : w.toNat / 2 ^ 56 = op.code)
    (hr : ∀ f ∈ op.reserved, w.toNat / 2 ^ f.1 % 2 ^ f.2 = 0) : decodeWord w = decodeOperands op w := by
  have h1 : opField w = op.code := by
    have := w.isLt
    rw [opField, field_toNat, ← hc]
    omega
  simp [decodeWord, h1, hostOp_ofCode_code, (fieldsZero_iff w op.reserved).2 hr]

/-- What a decoded word says of itself: its code is the operation's and its must-be-zero fields are 0. -/
theorem decodeWord_inv {w : Hcw} {i : Instr} (h : decodeWord w = .ok i) :
    ∃ op, w.toNat / 2 ^ 56 = op.code ∧ (∀ f ∈ op.reserved, w.toNat / 2 ^ f.1 % 2 ^ f.2 = 0) ∧
      decodeOperands op w = .ok i := by
  unfold decodeWord at h
  split at h
  · cases h
  · rename_i op hop
    split at h
    · rename_i hz
      refine ⟨op, ?_, (fieldsZero_iff w op.reserved).1 hz, h⟩
      have hc := code_of_hostOp_ofCode hop
      have := w.isLt
      rw [hc, opField, field_toNat]
      omega
    · cases h

theorem toNat_ofNat_of_lt {n : Nat} (h : n < 2 ^ 64) : (BitVec.ofNat 64 n).toNat = n := by
  rw [BitVec.toNat_ofNat, Nat.mod_eq_of_lt h]

/-! ### Decoding each format's packed word -/

theorem code_lt (op : HostOp) : op.code < 256 := by cases op <;> decide

theorem packN_toNat (op : HostOp) : (packN op).toNat = op.code * 2 ^ 56 := by
  have := code_lt op
  exact toNat_ofNat_of_lt (by omega)

theorem packP_toNat (op : HostOp) (x y : Byte) :
    (packP op x y).toNat = op.code * 2 ^ 56 + x.toNat * 2 ^ 48 + y.toNat * 2 ^ 40 := by
  have := code_lt op
  exact toNat_ofNat_of_lt (by omega)

theorem packC_toNat (op : HostOp) (x y r g b : Byte) :
    (packC op x y r g b).toNat = op.code * 2 ^ 56 + x.toNat * 2 ^ 48 + y.toNat * 2 ^ 40 +
      r.toNat * 2 ^ 32 + g.toNat * 2 ^ 24 + b.toNat * 2 ^ 16 := by
  have := code_lt op
  exact toNat_ofNat_of_lt (by omega)

theorem packA_toNat (op : HostOp) (r g b : Byte) :
    (packA op r g b).toNat = op.code * 2 ^ 56 + r.toNat * 2 ^ 32 + g.toNat * 2 ^ 24 + b.toNat * 2 ^ 16 := by
  have := code_lt op
  exact toNat_ofNat_of_lt (by omega)

theorem packI_toNat (op : HostOp) {imm : Nat} (h : imm < 2 ^ 16) : (packI op imm).toNat = op.code * 2 ^ 56 + imm := by
  have := code_lt op
  exact toNat_ofNat_of_lt (by omega)

theorem headerField_lt (cmd : List Byte) (j : Nat) : headerField cmd j < 256 := BitVec.isLt _

theorem packF_toNat (op : HostOp) {cmd : List Byte} (payload : Option Byte) (h : cmd.length ≤ 5) :
    (packF op cmd payload).toNat = op.code * 2 ^ 56 + cmd.length * 2 ^ 53 +
      (if payload.isSome then 1 else 0) * 2 ^ 52 + (payload.getD 0#8).toNat * 2 ^ 40 +
      headerField cmd 0 * 2 ^ 32 + headerField cmd 1 * 2 ^ 24 + headerField cmd 2 * 2 ^ 16 +
      headerField cmd 3 * 2 ^ 8 + headerField cmd 4 := by
  have h1 := code_lt op
  have h2 := headerField_lt cmd
  have h20 := h2 0
  have h21 := h2 1
  have h22 := h2 2
  have h23 := h2 3
  have h24 := h2 4
  have h3 := (payload.getD 0#8).isLt
  have h4 : (if payload.isSome then 1 else 0) ≤ 1 := by split <;> omega
  exact toNat_ofNat_of_lt (by omega)

/-- Format N: the word of the operation code alone. -/
theorem decodeWord_packN {op : HostOp} (hr : op.reserved = [(0, 56)]) :
    decodeWord (packN op) = decodeOperands op (packN op) := by
  have hw := packN_toNat op
  refine decodeWord_of_code (by omega) ?_
  rw [hr]
  intro f hf
  rw [List.mem_singleton.1 hf]
  dsimp only
  omega

/-- Format P: the operation code and the position, the rest 0. -/
theorem decodeWord_packP {op : HostOp} (x y : Byte) (hr : op.reserved = [(0, 40)]) :
    decodeWord (packP op x y) = decodeOperands op (packP op x y) ∧
      field (packP op x y) 48 8 = x ∧ field (packP op x y) 40 8 = y := by
  have hw := packP_toNat op x y
  have hx := x.isLt
  have hy := y.isLt
  refine ⟨decodeWord_of_code (by omega) ?_, field_eq (by omega), field_eq (by omega)⟩
  rw [hr]
  intro f hf
  rw [List.mem_singleton.1 hf]
  dsimp only
  omega

/-- Format C: the operation code, the position and the colour, the rest 0. -/
theorem decodeWord_packC (x y r g b : Byte) :
    decodeWord (packC .setPixel x y r g b) = .ok (.setPixel x y r g b) := by
  have hw := packC_toNat .setPixel x y r g b
  have hx := x.isLt
  have hy := y.isLt
  have hr := r.isLt
  have hg := g.isLt
  have hb := b.isLt
  rw [decodeWord_of_code (op := .setPixel) (by omega)]
  · rw [decodeOperands, field_eq (v := x), field_eq (v := y), field_eq (v := r), field_eq (v := g),
      field_eq (v := b)] <;> omega
  · intro f hf
    rw [List.mem_singleton.1 hf]
    dsimp only
    omega

/-- Format A: the operation code and the colour, the rest 0. -/
theorem decodeWord_packA (r g b : Byte) : decodeWord (packA .setAll r g b) = .ok (.setAll r g b) := by
  have hw := packA_toNat .setAll r g b
  have hr := r.isLt
  have hg := g.isLt
  have hb := b.isLt
  rw [decodeWord_of_code (op := .setAll) (by omega)]
  · rw [decodeOperands, field_eq (v := r), field_eq (v := g), field_eq (v := b)] <;> omega
  · intro f hf
    rw [HostOp.reserved, List.mem_cons, List.mem_singleton] at hf
    rcases hf with rfl | rfl <;> dsimp only <;> omega

/-- Format I: the operation code and the immediate, the rest 0. -/
theorem decodeWord_packI {op : HostOp} (imm : BitVec 16) (hr : op.reserved = [(16, 40)]) :
    decodeWord (packI op imm.toNat) = decodeOperands op (packI op imm.toNat) ∧
      field (packI op imm.toNat) 0 16 = imm := by
  have hi := imm.isLt
  have hw := packI_toNat op hi
  refine ⟨decodeWord_of_code (by omega) ?_, field_eq (by omega)⟩
  rw [hr]
  intro f hf
  rw [List.mem_singleton.1 hf]
  dsimp only
  omega

/-- Format I of SET_BRIGHTNESS: only IMM[5:0] is an operand. -/
theorem decodeWord_packBrightness (code : Brightness) :
    decodeWord (packI .setBrightness code.toNat) = .ok (.setBrightness code) := by
  have hc := code.isLt
  have hw := packI_toNat .setBrightness (imm := code.toNat) (by omega)
  rw [decodeWord_of_code (op := .setBrightness) (by omega)]
  · rw [decodeOperands, field_eq (v := code)]
    omega
  · intro f hf
    rw [HostOp.reserved, List.mem_cons, List.mem_singleton] at hf
    rcases hf with rfl | rfl <;> dsimp only <;> omega

/-! ### Format F -/

/-- The header fields of FRAME's word are its command bytes, then zeros (R88). -/
theorem headerBytes_packF {cmd : List Byte} (payload : Option Byte) (h : cmd.length ≤ 5) :
    headerBytes (packF .frame cmd payload) =
      [cmd.getD 0 0#8, cmd.getD 1 0#8, cmd.getD 2 0#8, cmd.getD 3 0#8, cmd.getD 4 0#8] := by
  have hw := packF_toNat .frame payload h
  have hf := headerField_lt cmd
  have h0 := hf 0
  have h1 := hf 1
  have h2 := hf 2
  have h3 := hf 3
  have h4 := hf 4
  have hl := (payload.getD 0#8).isLt
  have hp : (if payload.isSome then 1 else 0) ≤ 1 := by split <;> omega
  unfold headerBytes
  rw [field_eq (v := cmd.getD 0 0#8), field_eq (v := cmd.getD 1 0#8), field_eq (v := cmd.getD 2 0#8),
    field_eq (v := cmd.getD 3 0#8), field_eq (v := cmd.getD 4 0#8)] <;> unfold headerField at * <;> omega

/-- Five header fields that hold a list of at most five bytes: as many as there are bytes give the list back, and
the rest are 0. -/
theorem take_drop_header {cmd : List Byte} (h : cmd.length ≤ 5) :
    [cmd.getD 0 0#8, cmd.getD 1 0#8, cmd.getD 2 0#8, cmd.getD 3 0#8, cmd.getD 4 0#8].take cmd.length = cmd ∧
      ([cmd.getD 0 0#8, cmd.getD 1 0#8, cmd.getD 2 0#8, cmd.getD 3 0#8, cmd.getD 4 0#8].drop cmd.length).any
        (fun b => b != 0#8) = false := by
  match cmd, h with
  | [], _ => exact ⟨rfl, rfl⟩
  | [_], _ => exact ⟨rfl, rfl⟩
  | [_, _], _ => exact ⟨rfl, rfl⟩
  | [_, _, _], _ => exact ⟨rfl, rfl⟩
  | [_, _, _, _], _ => exact ⟨rfl, rfl⟩
  | [_, _, _, _, _], _ => exact ⟨rfl, rfl⟩
  | _ :: _ :: _ :: _ :: _ :: _ :: _, h => simp only [List.length_cons] at h; omega

/-- HLEN, PAY and LEN of FRAME's word (R88). -/
theorem lengths_packF {cmd : List Byte} (payload : Option Byte) (h : cmd.length ≤ 5) :
    (field (packF .frame cmd payload) 53 3).toNat = cmd.length ∧
      (field (packF .frame cmd payload) 52 1).toNat = (if payload.isSome then 1 else 0) ∧
      field (packF .frame cmd payload) 40 8 = payload.getD 0#8 := by
  have hw := packF_toNat .frame payload h
  have hf := headerField_lt cmd
  have h0 := hf 0
  have h1 := hf 1
  have h2 := hf 2
  have h3 := hf 3
  have h4 := hf 4
  have hl := (payload.getD 0#8).isLt
  have hp : (if payload.isSome then 1 else 0) ≤ 1 := by split <;> omega
  refine ⟨?_, ?_, field_eq ?_⟩
  · rw [field_toNat]
    omega
  · rw [field_toNat]
    omega
  · omega

theorem decodeWord_packF {cmd : List Byte} (payload : Option Byte) (h1 : 1 ≤ cmd.length) (h5 : cmd.length ≤ 5) :
    decodeWord (packF .frame cmd payload) = .ok (.frame cmd payload) := by
  have hw := packF_toNat .frame payload h5
  obtain ⟨hhlen, hpay, hlen⟩ := lengths_packF payload h5
  have hb := headerBytes_packF payload h5
  obtain ⟨htake, hdrop⟩ := take_drop_header h5
  have hf := headerField_lt cmd
  have b0 := hf 0
  have b1 := hf 1
  have b2 := hf 2
  have b3 := hf 3
  have b4 := hf 4
  have bl := (payload.getD 0#8).isLt
  have hp : (if payload.isSome then 1 else 0) ≤ 1 := by split <;> omega
  rw [decodeWord_of_code (op := .frame) (by omega)]
  · have hn : ¬ (cmd.length < 1 ∨ 5 < cmd.length) := by omega
    simp only [decodeOperands, decodeFrame, hhlen, hpay, hlen, hb, hdrop, htake, hn]
    cases payload <;> simp
  · intro f hm
    rw [List.mem_singleton.1 hm]
    dsimp only
    omega

/-- Decoding the encoding of a FRAME. -/
theorem decode_encode_frame {cmd : List Byte} {payload : Option Byte}
    (h : (Instr.frame cmd payload).WellFormed = true) :
    decode (encode (.frame cmd payload)) = .ok (.frame cmd payload) := by
  simp only [Instr.WellFormed, Bool.and_eq_true, decide_eq_true_eq] at h
  exact decodeWord_packF payload h.1 h.2

/-! ### What a decoded word was -/

theorem toNat_eq_packed {w : Hcw} {n : Nat} (h : n = w.toNat) : BitVec.ofNat 64 n = w :=
  BitVec.eq_of_toNat_eq (by rw [h, BitVec.toNat_ofNat, Nat.mod_eq_of_lt w.isLt])

/-- Leaving out zeros at the end of the header changes no header field. -/
theorem getD_take_of_drop_zero {l : List Byte} {k : Nat} (h : ∀ b ∈ l.drop k, b = 0#8) (j : Nat) :
    (l.take k).getD j 0#8 = l.getD j 0#8 := by
  rw [List.getD_eq_getElem?_getD, List.getD_eq_getElem?_getD, List.getElem?_take]
  split
  · rfl
  · next hj =>
    rcases hl : l[j]? with _ | b
    · rfl
    · have hb : (l.drop k)[j - k]? = some b := by rw [List.getElem?_drop, ← hl]; congr 1; omega
      rw [h b (List.mem_of_getElem? hb)]
      rfl

/-- A format F word's number, field by field. -/
theorem frame_number {n : Nat} (h : n / 2 ^ 48 % 2 ^ 4 = 0) :
    n / 2 ^ 56 * 2 ^ 56 + n / 2 ^ 53 % 2 ^ 3 * 2 ^ 53 + n / 2 ^ 52 % 2 ^ 1 * 2 ^ 52 + n / 2 ^ 40 % 2 ^ 8 * 2 ^ 40 +
      n / 2 ^ 32 % 2 ^ 8 * 2 ^ 32 + n / 2 ^ 24 % 2 ^ 8 * 2 ^ 24 + n / 2 ^ 16 % 2 ^ 8 * 2 ^ 16 +
      n / 2 ^ 8 % 2 ^ 8 * 2 ^ 8 + n / 2 ^ 0 % 2 ^ 8 = n := by
  omega

/-- A decoded format F word is well-formed, and encoding it gives the word back. -/
theorem encode_of_decodeFrame {w : Hcw} {i : Instr} (hc : w.toNat / 2 ^ 56 = HostOp.frame.code)
    (hr : w.toNat / 2 ^ 48 % 2 ^ 4 = 0) (h : decodeFrame w = .ok i) : i.WellFormed = true ∧ encode i = .word w := by
  have hlen : (headerBytes w).length = 5 := rfl
  unfold decodeFrame at h
  dsimp only at h
  split at h
  · cases h
  · next hb =>
    split at h
    · cases h
    · next hs =>
      have hs' : ∀ b ∈ (headerBytes w).drop (field w 53 3).toNat, b = 0#8 := by simpa using hs
      have wf : ∀ p, (Instr.frame ((headerBytes w).take (field w 53 3).toNat) p).WellFormed = true := by
        intro p
        simp only [Instr.WellFormed, List.length_take, hlen, Bool.and_eq_true, decide_eq_true_eq]
        omega
      have key : ∀ p : Option Byte, (if p.isSome then 1 else 0) = (field w 52 1).toNat →
          p.getD 0#8 = field w 40 8 →
          encode (.frame ((headerBytes w).take (field w 53 3).toNat) p) = .word w := by
        intro p hp hq
        refine congrArg Request.word (toNat_eq_packed ?_)
        have hk : ((headerBytes w).take (field w 53 3).toNat).length = (field w 53 3).toNat := by
          rw [List.length_take, hlen]
          omega
        rw [hp, hq, hk, ← hc]
        unfold headerField
        rw [getD_take_of_drop_zero hs', getD_take_of_drop_zero hs', getD_take_of_drop_zero hs',
          getD_take_of_drop_zero hs', getD_take_of_drop_zero hs']
        simp only [headerBytes, List.getD_cons_zero, List.getD_cons_succ, field_toNat]
        exact frame_number hr
      split at h
      · next hp =>
        split at h
        · next hl =>
          cases h
          exact ⟨wf _, key _ (by simp [hp]) (by simp [hl])⟩
        · cases h
      · next hp =>
        cases h
        exact ⟨wf _, key _ (by simp; omega) (by simp)⟩

/-- Encoding what was decoded from a word gives the word back; and what was decoded is well-formed. -/
theorem encode_of_decodeWord {w : Hcw} {i : Instr} (h : decodeWord w = .ok i) :
    i.WellFormed = true ∧ encode i = .word w := by
  obtain ⟨op, hc, hr, ho⟩ := decodeWord_inv h
  have fields (lo n : Nat) := field_toNat w lo n
  have b48 := fields 48 8
  have b40 := fields 40 8
  have b32 := fields 32 8
  have b24 := fields 24 8
  have b16 := fields 16 8
  have i16 := fields 0 16
  have i6 := fields 0 6
  have hw := w.isLt
  cases op <;> simp only [HostOp.reserved, List.mem_cons, List.not_mem_nil, or_false, forall_eq_or_imp, forall_eq,
    HostOp.code] at hr hc <;> (try obtain ⟨hr, hr2⟩ := hr) <;> simp only [decodeOperands, Except.ok.injEq] at ho <;>
    first
    | exact encode_of_decodeFrame hc hr ho
    | (subst ho
       refine ⟨rfl, congrArg Request.word (toNat_eq_packed ?_)⟩
       simp only [HostOp.code]
       omega)

/-- The eight wire commands, and no other bytes, are decoded as wire commands. -/
theorem encode_of_decodeWire {bytes : List Byte} {i : Instr} (h : decodeWire bytes = .ok i) :
    i.WellFormed = true ∧ encode i = .wire bytes := by
  unfold decodeWire at h
  split at h
  · cases h
  · next c data =>
    split at h
    · cases h
    · next op hop =>
      have hc := code_of_wireOp_ofCode hop
      subst hc
      cases op <;> rcases data with _ | ⟨a, _ | ⟨b, _ | ⟨d, _ | ⟨e, _ | ⟨f, data⟩⟩⟩⟩⟩ <;> cases h <;> exact ⟨rfl, rfl⟩

end Sys2Proof.Laws
end

