-- ==== Sys2Proof/Laws/State.lean ====
section
/-!
SUPPORT. What each update of the state does to each of its fields, so that no later proof unfolds a record update.
-/

namespace Sys2Proof.Machine

/-! ### setGrid -/

@[simp] theorem State.setGrid_grid (s : State) (g : Grid) : (s.setGrid g).grid = g := rfl
@[simp] theorem State.setGrid_rot (s : State) (g : Grid) : (s.setGrid g).rot = s.rot := rfl
@[simp] theorem State.setGrid_flipX (s : State) (g : Grid) : (s.setGrid g).flipX = s.flipX := rfl
@[simp] theorem State.setGrid_flipY (s : State) (g : Grid) : (s.setGrid g).flipY = s.flipY := rfl
@[simp] theorem State.setGrid_bri (s : State) (g : Grid) : (s.setGrid g).bri = s.bri := rfl
@[simp] theorem State.setGrid_inited (s : State) (g : Grid) : (s.setGrid g).inited = s.inited := rfl
@[simp] theorem State.setGrid_phys (s : State) (g : Grid) : (s.setGrid g).phys = s.phys := rfl
@[simp] theorem State.setGrid_hung (s : State) (g : Grid) : (s.setGrid g).hung = s.hung := rfl
@[simp] theorem State.setGrid_resetLine (s : State) (g : Grid) : (s.setGrid g).resetLine = s.resetLine := rfl
@[simp] theorem State.setGrid_pending (s : State) (g : Grid) : (s.setGrid g).pending = s.pending := rfl
@[simp] theorem State.setGrid_answers (s : State) (g : Grid) : (s.setGrid g).answers = s.answers := rfl
@[simp] theorem State.setGrid_responses (s : State) (g : Grid) : (s.setGrid g).responses = s.responses := rfl
@[simp] theorem State.setGrid_wire (s : State) (g : Grid) : (s.setGrid g).wire = s.wire := rfl

/-! ### setPixelAt -/

@[simp] theorem State.setPixelAt_grid (s : State) (i : PixelIndex) (p : Pixel) :
    (s.setPixelAt i p).grid = s.grid.set i.val p i.isLt := rfl
@[simp] theorem State.setPixelAt_rot (s : State) (i : PixelIndex) (p : Pixel) : (s.setPixelAt i p).rot = s.rot := rfl
@[simp] theorem State.setPixelAt_flipX (s : State) (i : PixelIndex) (p : Pixel) :
    (s.setPixelAt i p).flipX = s.flipX := rfl
@[simp] theorem State.setPixelAt_flipY (s : State) (i : PixelIndex) (p : Pixel) :
    (s.setPixelAt i p).flipY = s.flipY := rfl
@[simp] theorem State.setPixelAt_bri (s : State) (i : PixelIndex) (p : Pixel) : (s.setPixelAt i p).bri = s.bri := rfl
@[simp] theorem State.setPixelAt_inited (s : State) (i : PixelIndex) (p : Pixel) :
    (s.setPixelAt i p).inited = s.inited := rfl
@[simp] theorem State.setPixelAt_phys (s : State) (i : PixelIndex) (p : Pixel) :
    (s.setPixelAt i p).phys = s.phys := rfl
@[simp] theorem State.setPixelAt_hung (s : State) (i : PixelIndex) (p : Pixel) :
    (s.setPixelAt i p).hung = s.hung := rfl
@[simp] theorem State.setPixelAt_resetLine (s : State) (i : PixelIndex) (p : Pixel) :
    (s.setPixelAt i p).resetLine = s.resetLine := rfl
@[simp] theorem State.setPixelAt_pending (s : State) (i : PixelIndex) (p : Pixel) :
    (s.setPixelAt i p).pending = s.pending := rfl
@[simp] theorem State.setPixelAt_answers (s : State) (i : PixelIndex) (p : Pixel) :
    (s.setPixelAt i p).answers = s.answers := rfl
@[simp] theorem State.setPixelAt_responses (s : State) (i : PixelIndex) (p : Pixel) :
    (s.setPixelAt i p).responses = s.responses := rfl
@[simp] theorem State.setPixelAt_wire (s : State) (i : PixelIndex) (p : Pixel) :
    (s.setPixelAt i p).wire = s.wire := rfl

/-! ### fillGrid -/

@[simp] theorem State.fillGrid_grid (s : State) (p : Pixel) : (s.fillGrid p).grid = Vector.replicate 119 p := rfl
@[simp] theorem State.fillGrid_rot (s : State) (p : Pixel) : (s.fillGrid p).rot = s.rot := rfl
@[simp] theorem State.fillGrid_flipX (s : State) (p : Pixel) : (s.fillGrid p).flipX = s.flipX := rfl
@[simp] theorem State.fillGrid_flipY (s : State) (p : Pixel) : (s.fillGrid p).flipY = s.flipY := rfl
@[simp] theorem State.fillGrid_bri (s : State) (p : Pixel) : (s.fillGrid p).bri = s.bri := rfl
@[simp] theorem State.fillGrid_inited (s : State) (p : Pixel) : (s.fillGrid p).inited = s.inited := rfl
@[simp] theorem State.fillGrid_phys (s : State) (p : Pixel) : (s.fillGrid p).phys = s.phys := rfl
@[simp] theorem State.fillGrid_hung (s : State) (p : Pixel) : (s.fillGrid p).hung = s.hung := rfl
@[simp] theorem State.fillGrid_resetLine (s : State) (p : Pixel) : (s.fillGrid p).resetLine = s.resetLine := rfl
@[simp] theorem State.fillGrid_pending (s : State) (p : Pixel) : (s.fillGrid p).pending = s.pending := rfl
@[simp] theorem State.fillGrid_answers (s : State) (p : Pixel) : (s.fillGrid p).answers = s.answers := rfl
@[simp] theorem State.fillGrid_responses (s : State) (p : Pixel) : (s.fillGrid p).responses = s.responses := rfl
@[simp] theorem State.fillGrid_wire (s : State) (p : Pixel) : (s.fillGrid p).wire = s.wire := rfl

/-! ### setPhys -/

@[simp] theorem State.setPhys_grid (s : State) (m : Memory) : (s.setPhys m).grid = s.grid := rfl
@[simp] theorem State.setPhys_rot (s : State) (m : Memory) : (s.setPhys m).rot = s.rot := rfl
@[simp] theorem State.setPhys_flipX (s : State) (m : Memory) : (s.setPhys m).flipX = s.flipX := rfl
@[simp] theorem State.setPhys_flipY (s : State) (m : Memory) : (s.setPhys m).flipY = s.flipY := rfl
@[simp] theorem State.setPhys_bri (s : State) (m : Memory) : (s.setPhys m).bri = s.bri := rfl
@[simp] theorem State.setPhys_inited (s : State) (m : Memory) : (s.setPhys m).inited = s.inited := rfl
@[simp] theorem State.setPhys_phys (s : State) (m : Memory) : (s.setPhys m).phys = m := rfl
@[simp] theorem State.setPhys_hung (s : State) (m : Memory) : (s.setPhys m).hung = s.hung := rfl
@[simp] theorem State.setPhys_resetLine (s : State) (m : Memory) : (s.setPhys m).resetLine = s.resetLine := rfl
@[simp] theorem State.setPhys_pending (s : State) (m : Memory) : (s.setPhys m).pending = s.pending := rfl
@[simp] theorem State.setPhys_answers (s : State) (m : Memory) : (s.setPhys m).answers = s.answers := rfl
@[simp] theorem State.setPhys_responses (s : State) (m : Memory) : (s.setPhys m).responses = s.responses := rfl
@[simp] theorem State.setPhys_wire (s : State) (m : Memory) : (s.setPhys m).wire = s.wire := rfl

/-! ### setInited -/

@[simp] theorem State.setInited_grid (s : State) (v : Bool) : (s.setInited v).grid = s.grid := rfl
@[simp] theorem State.setInited_rot (s : State) (v : Bool) : (s.setInited v).rot = s.rot := rfl
@[simp] theorem State.setInited_flipX (s : State) (v : Bool) : (s.setInited v).flipX = s.flipX := rfl
@[simp] theorem State.setInited_flipY (s : State) (v : Bool) : (s.setInited v).flipY = s.flipY := rfl
@[simp] theorem State.setInited_bri (s : State) (v : Bool) : (s.setInited v).bri = s.bri := rfl
@[simp] theorem State.setInited_inited (s : State) (v : Bool) : (s.setInited v).inited = v := rfl
@[simp] theorem State.setInited_phys (s : State) (v : Bool) : (s.setInited v).phys = s.phys := rfl
@[simp] theorem State.setInited_hung (s : State) (v : Bool) : (s.setInited v).hung = s.hung := rfl
@[simp] theorem State.setInited_resetLine (s : State) (v : Bool) : (s.setInited v).resetLine = s.resetLine := rfl
@[simp] theorem State.setInited_pending (s : State) (v : Bool) : (s.setInited v).pending = s.pending := rfl
@[simp] theorem State.setInited_answers (s : State) (v : Bool) : (s.setInited v).answers = s.answers := rfl
@[simp] theorem State.setInited_responses (s : State) (v : Bool) : (s.setInited v).responses = s.responses := rfl
@[simp] theorem State.setInited_wire (s : State) (v : Bool) : (s.setInited v).wire = s.wire := rfl

/-! ### setPending -/

@[simp] theorem State.setPending_grid (s : State) (rs : List Request) : (s.setPending rs).grid = s.grid := rfl
@[simp] theorem State.setPending_rot (s : State) (rs : List Request) : (s.setPending rs).rot = s.rot := rfl
@[simp] theorem State.setPending_flipX (s : State) (rs : List Request) : (s.setPending rs).flipX = s.flipX := rfl
@[simp] theorem State.setPending_flipY (s : State) (rs : List Request) : (s.setPending rs).flipY = s.flipY := rfl
@[simp] theorem State.setPending_bri (s : State) (rs : List Request) : (s.setPending rs).bri = s.bri := rfl
@[simp] theorem State.setPending_inited (s : State) (rs : List Request) : (s.setPending rs).inited = s.inited := rfl
@[simp] theorem State.setPending_phys (s : State) (rs : List Request) : (s.setPending rs).phys = s.phys := rfl
@[simp] theorem State.setPending_hung (s : State) (rs : List Request) : (s.setPending rs).hung = s.hung := rfl
@[simp] theorem State.setPending_resetLine (s : State) (rs : List Request) :
    (s.setPending rs).resetLine = s.resetLine := rfl
@[simp] theorem State.setPending_pending (s : State) (rs : List Request) : (s.setPending rs).pending = rs := rfl
@[simp] theorem State.setPending_answers (s : State) (rs : List Request) :
    (s.setPending rs).answers = s.answers := rfl
@[simp] theorem State.setPending_responses (s : State) (rs : List Request) :
    (s.setPending rs).responses = s.responses := rfl
@[simp] theorem State.setPending_wire (s : State) (rs : List Request) : (s.setPending rs).wire = s.wire := rfl

/-! ### setRot -/

@[simp] theorem State.setRot_grid (s : State) (v : Rotation) : (s.setRot v).grid = s.grid := rfl
@[simp] theorem State.setRot_rot (s : State) (v : Rotation) : (s.setRot v).rot = v := rfl
@[simp] theorem State.setRot_flipX (s : State) (v : Rotation) : (s.setRot v).flipX = s.flipX := rfl
@[simp] theorem State.setRot_flipY (s : State) (v : Rotation) : (s.setRot v).flipY = s.flipY := rfl
@[simp] theorem State.setRot_bri (s : State) (v : Rotation) : (s.setRot v).bri = s.bri := rfl
@[simp] theorem State.setRot_inited (s : State) (v : Rotation) : (s.setRot v).inited = s.inited := rfl
@[simp] theorem State.setRot_phys (s : State) (v : Rotation) : (s.setRot v).phys = s.phys := rfl
@[simp] theorem State.setRot_hung (s : State) (v : Rotation) : (s.setRot v).hung = s.hung := rfl
@[simp] theorem State.setRot_resetLine (s : State) (v : Rotation) : (s.setRot v).resetLine = s.resetLine := rfl
@[simp] theorem State.setRot_pending (s : State) (v : Rotation) : (s.setRot v).pending = s.pending := rfl
@[simp] theorem State.setRot_answers (s : State) (v : Rotation) : (s.setRot v).answers = s.answers := rfl
@[simp] theorem State.setRot_responses (s : State) (v : Rotation) : (s.setRot v).responses = s.responses := rfl
@[simp] theorem State.setRot_wire (s : State) (v : Rotation) : (s.setRot v).wire = s.wire := rfl

/-! ### toggleFlipX -/

@[simp] theorem State.toggleFlipX_grid (s : State) : (s.toggleFlipX).grid = s.grid := rfl
@[simp] theorem State.toggleFlipX_rot (s : State) : (s.toggleFlipX).rot = s.rot := rfl
@[simp] theorem State.toggleFlipX_flipX (s : State) : (s.toggleFlipX).flipX = !s.flipX := rfl
@[simp] theorem State.toggleFlipX_flipY (s : State) : (s.toggleFlipX).flipY = s.flipY := rfl
@[simp] theorem State.toggleFlipX_bri (s : State) : (s.toggleFlipX).bri = s.bri := rfl
@[simp] theorem State.toggleFlipX_inited (s : State) : (s.toggleFlipX).inited = s.inited := rfl
@[simp] theorem State.toggleFlipX_phys (s : State) : (s.toggleFlipX).phys = s.phys := rfl
@[simp] theorem State.toggleFlipX_hung (s : State) : (s.toggleFlipX).hung = s.hung := rfl
@[simp] theorem State.toggleFlipX_resetLine (s : State) : (s.toggleFlipX).resetLine = s.resetLine := rfl
@[simp] theorem State.toggleFlipX_pending (s : State) : (s.toggleFlipX).pending = s.pending := rfl
@[simp] theorem State.toggleFlipX_answers (s : State) : (s.toggleFlipX).answers = s.answers := rfl
@[simp] theorem State.toggleFlipX_responses (s : State) : (s.toggleFlipX).responses = s.responses := rfl
@[simp] theorem State.toggleFlipX_wire (s : State) : (s.toggleFlipX).wire = s.wire := rfl

/-! ### toggleFlipY -/

@[simp] theorem State.toggleFlipY_grid (s : State) : (s.toggleFlipY).grid = s.grid := rfl
@[simp] theorem State.toggleFlipY_rot (s : State) : (s.toggleFlipY).rot = s.rot := rfl
@[simp] theorem State.toggleFlipY_flipX (s : State) : (s.toggleFlipY).flipX = s.flipX := rfl
@[simp] theorem State.toggleFlipY_flipY (s : State) : (s.toggleFlipY).flipY = !s.flipY := rfl
@[simp] theorem State.toggleFlipY_bri (s : State) : (s.toggleFlipY).bri = s.bri := rfl
@[simp] theorem State.toggleFlipY_inited (s : State) : (s.toggleFlipY).inited = s.inited := rfl
@[simp] theorem State.toggleFlipY_phys (s : State) : (s.toggleFlipY).phys = s.phys := rfl
@[simp] theorem State.toggleFlipY_hung (s : State) : (s.toggleFlipY).hung = s.hung := rfl
@[simp] theorem State.toggleFlipY_resetLine (s : State) : (s.toggleFlipY).resetLine = s.resetLine := rfl
@[simp] theorem State.toggleFlipY_pending (s : State) : (s.toggleFlipY).pending = s.pending := rfl
@[simp] theorem State.toggleFlipY_answers (s : State) : (s.toggleFlipY).answers = s.answers := rfl
@[simp] theorem State.toggleFlipY_responses (s : State) : (s.toggleFlipY).responses = s.responses := rfl
@[simp] theorem State.toggleFlipY_wire (s : State) : (s.toggleFlipY).wire = s.wire := rfl

/-! ### setBri -/

@[simp] theorem State.setBri_grid (s : State) (v : Brightness) : (s.setBri v).grid = s.grid := rfl
@[simp] theorem State.setBri_rot (s : State) (v : Brightness) : (s.setBri v).rot = s.rot := rfl
@[simp] theorem State.setBri_flipX (s : State) (v : Brightness) : (s.setBri v).flipX = s.flipX := rfl
@[simp] theorem State.setBri_flipY (s : State) (v : Brightness) : (s.setBri v).flipY = s.flipY := rfl
@[simp] theorem State.setBri_bri (s : State) (v : Brightness) : (s.setBri v).bri = v := rfl
@[simp] theorem State.setBri_inited (s : State) (v : Brightness) : (s.setBri v).inited = s.inited := rfl
@[simp] theorem State.setBri_phys (s : State) (v : Brightness) : (s.setBri v).phys = s.phys := rfl
@[simp] theorem State.setBri_hung (s : State) (v : Brightness) : (s.setBri v).hung = s.hung := rfl
@[simp] theorem State.setBri_resetLine (s : State) (v : Brightness) : (s.setBri v).resetLine = s.resetLine := rfl
@[simp] theorem State.setBri_pending (s : State) (v : Brightness) : (s.setBri v).pending = s.pending := rfl
@[simp] theorem State.setBri_answers (s : State) (v : Brightness) : (s.setBri v).answers = s.answers := rfl
@[simp] theorem State.setBri_responses (s : State) (v : Brightness) : (s.setBri v).responses = s.responses := rfl
@[simp] theorem State.setBri_wire (s : State) (v : Brightness) : (s.setBri v).wire = s.wire := rfl

/-! ### addResponse -/

@[simp] theorem State.addResponse_grid (s : State) (w : Hrw) : (s.addResponse w).grid = s.grid := rfl
@[simp] theorem State.addResponse_rot (s : State) (w : Hrw) : (s.addResponse w).rot = s.rot := rfl
@[simp] theorem State.addResponse_flipX (s : State) (w : Hrw) : (s.addResponse w).flipX = s.flipX := rfl
@[simp] theorem State.addResponse_flipY (s : State) (w : Hrw) : (s.addResponse w).flipY = s.flipY := rfl
@[simp] theorem State.addResponse_bri (s : State) (w : Hrw) : (s.addResponse w).bri = s.bri := rfl
@[simp] theorem State.addResponse_inited (s : State) (w : Hrw) : (s.addResponse w).inited = s.inited := rfl
@[simp] theorem State.addResponse_phys (s : State) (w : Hrw) : (s.addResponse w).phys = s.phys := rfl
@[simp] theorem State.addResponse_hung (s : State) (w : Hrw) : (s.addResponse w).hung = s.hung := rfl
@[simp] theorem State.addResponse_resetLine (s : State) (w : Hrw) : (s.addResponse w).resetLine = s.resetLine := rfl
@[simp] theorem State.addResponse_pending (s : State) (w : Hrw) : (s.addResponse w).pending = s.pending := rfl
@[simp] theorem State.addResponse_answers (s : State) (w : Hrw) : (s.addResponse w).answers = s.answers := rfl
@[simp] theorem State.addResponse_responses (s : State) (w : Hrw) :
    (s.addResponse w).responses = s.responses ++ [w] := rfl
@[simp] theorem State.addResponse_wire (s : State) (w : Hrw) : (s.addResponse w).wire = s.wire := rfl

/-! ### respond -/

@[simp] theorem respond_grid (v : BitVec 32) (s : State) : (respond v s).grid = s.grid := rfl
@[simp] theorem respond_rot (v : BitVec 32) (s : State) : (respond v s).rot = s.rot := rfl
@[simp] theorem respond_flipX (v : BitVec 32) (s : State) : (respond v s).flipX = s.flipX := rfl
@[simp] theorem respond_flipY (v : BitVec 32) (s : State) : (respond v s).flipY = s.flipY := rfl
@[simp] theorem respond_bri (v : BitVec 32) (s : State) : (respond v s).bri = s.bri := rfl
@[simp] theorem respond_inited (v : BitVec 32) (s : State) : (respond v s).inited = s.inited := rfl
@[simp] theorem respond_phys (v : BitVec 32) (s : State) : (respond v s).phys = s.phys := rfl
@[simp] theorem respond_hung (v : BitVec 32) (s : State) : (respond v s).hung = s.hung := rfl
@[simp] theorem respond_resetLine (v : BitVec 32) (s : State) : (respond v s).resetLine = s.resetLine := rfl
@[simp] theorem respond_pending (v : BitVec 32) (s : State) : (respond v s).pending = s.pending := rfl
@[simp] theorem respond_answers (v : BitVec 32) (s : State) : (respond v s).answers = s.answers := rfl
@[simp] theorem respond_responses (v : BitVec 32) (s : State) :
    (respond v s).responses = s.responses ++ [hrw 0 v] := rfl
@[simp] theorem respond_wire (v : BitVec 32) (s : State) : (respond v s).wire = s.wire := rfl

/-! ### raise -/

@[simp] theorem raise_grid (e : ErrorKind) (s : State) : (raise e s).grid = s.grid := rfl
@[simp] theorem raise_rot (e : ErrorKind) (s : State) : (raise e s).rot = s.rot := rfl
@[simp] theorem raise_flipX (e : ErrorKind) (s : State) : (raise e s).flipX = s.flipX := rfl
@[simp] theorem raise_flipY (e : ErrorKind) (s : State) : (raise e s).flipY = s.flipY := rfl
@[simp] theorem raise_bri (e : ErrorKind) (s : State) : (raise e s).bri = s.bri := rfl
@[simp] theorem raise_inited (e : ErrorKind) (s : State) : (raise e s).inited = s.inited := rfl
@[simp] theorem raise_phys (e : ErrorKind) (s : State) : (raise e s).phys = s.phys := rfl
@[simp] theorem raise_hung (e : ErrorKind) (s : State) : (raise e s).hung = s.hung := rfl
@[simp] theorem raise_resetLine (e : ErrorKind) (s : State) : (raise e s).resetLine = s.resetLine := rfl
@[simp] theorem raise_pending (e : ErrorKind) (s : State) : (raise e s).pending = s.pending := rfl
@[simp] theorem raise_answers (e : ErrorKind) (s : State) : (raise e s).answers = s.answers := rfl
@[simp] theorem raise_responses (e : ErrorKind) (s : State) :
    (raise e s).responses = s.responses ++ [hrw e.status 0#32] := rfl
@[simp] theorem raise_wire (e : ErrorKind) (s : State) : (raise e s).wire = s.wire := rfl

/-! ### addEmission -/

@[simp] theorem State.addEmission_grid (s : State) (k : Link) (b : List Byte) (a : Answer) :
    (s.addEmission k b a).grid = s.grid := rfl
@[simp] theorem State.addEmission_rot (s : State) (k : Link) (b : List Byte) (a : Answer) :
    (s.addEmission k b a).rot = s.rot := rfl
@[simp] theorem State.addEmission_flipX (s : State) (k : Link) (b : List Byte) (a : Answer) :
    (s.addEmission k b a).flipX = s.flipX := rfl
@[simp] theorem State.addEmission_flipY (s : State) (k : Link) (b : List Byte) (a : Answer) :
    (s.addEmission k b a).flipY = s.flipY := rfl
@[simp] theorem State.addEmission_bri (s : State) (k : Link) (b : List Byte) (a : Answer) :
    (s.addEmission k b a).bri = s.bri := rfl
@[simp] theorem State.addEmission_inited (s : State) (k : Link) (b : List Byte) (a : Answer) :
    (s.addEmission k b a).inited = s.inited := rfl
@[simp] theorem State.addEmission_phys (s : State) (k : Link) (b : List Byte) (a : Answer) :
    (s.addEmission k b a).phys = s.phys := rfl
@[simp] theorem State.addEmission_hung (s : State) (k : Link) (b : List Byte) (a : Answer) :
    (s.addEmission k b a).hung = (s.hung || a == .never) := rfl
@[simp] theorem State.addEmission_resetLine (s : State) (k : Link) (b : List Byte) (a : Answer) :
    (s.addEmission k b a).resetLine = s.resetLine := rfl
@[simp] theorem State.addEmission_pending (s : State) (k : Link) (b : List Byte) (a : Answer) :
    (s.addEmission k b a).pending = s.pending := rfl
@[simp] theorem State.addEmission_answers (s : State) (k : Link) (b : List Byte) (a : Answer) :
    (s.addEmission k b a).answers = s.answers.tail := rfl
@[simp] theorem State.addEmission_responses (s : State) (k : Link) (b : List Byte) (a : Answer) :
    (s.addEmission k b a).responses = s.responses := rfl
@[simp] theorem State.addEmission_wire (s : State) (k : Link) (b : List Byte) (a : Answer) :
    (s.addEmission k b a).wire = s.wire ++ [⟨k, b, a⟩] := rfl

/-! ### renderWith -/

@[simp] theorem renderWith_grid (lut : Lut) (s : State) :
    (renderWith lut s).grid = s.grid := by rw [renderWith, State.setPhys_grid]
@[simp] theorem renderWith_rot (lut : Lut) (s : State) :
    (renderWith lut s).rot = s.rot := by rw [renderWith, State.setPhys_rot]
@[simp] theorem renderWith_flipX (lut : Lut) (s : State) :
    (renderWith lut s).flipX = s.flipX := by rw [renderWith, State.setPhys_flipX]
@[simp] theorem renderWith_flipY (lut : Lut) (s : State) :
    (renderWith lut s).flipY = s.flipY := by rw [renderWith, State.setPhys_flipY]
@[simp] theorem renderWith_bri (lut : Lut) (s : State) :
    (renderWith lut s).bri = s.bri := by rw [renderWith, State.setPhys_bri]
@[simp] theorem renderWith_inited (lut : Lut) (s : State) :
    (renderWith lut s).inited = s.inited := by rw [renderWith, State.setPhys_inited]
@[simp] theorem renderWith_phys (lut : Lut) (s : State) :
    (renderWith lut s).phys = renderBuffer lut Config.renderOrder s.grid s.rot s.flipX s.flipY := by rw [renderWith, State.setPhys_phys]
@[simp] theorem renderWith_hung (lut : Lut) (s : State) :
    (renderWith lut s).hung = s.hung := by rw [renderWith, State.setPhys_hung]
@[simp] theorem renderWith_resetLine (lut : Lut) (s : State) :
    (renderWith lut s).resetLine = s.resetLine := by rw [renderWith, State.setPhys_resetLine]
@[simp] theorem renderWith_pending (lut : Lut) (s : State) :
    (renderWith lut s).pending = s.pending := by rw [renderWith, State.setPhys_pending]
@[simp] theorem renderWith_answers (lut : Lut) (s : State) :
    (renderWith lut s).answers = s.answers := by rw [renderWith, State.setPhys_answers]
@[simp] theorem renderWith_responses (lut : Lut) (s : State) :
    (renderWith lut s).responses = s.responses := by rw [renderWith, State.setPhys_responses]
@[simp] theorem renderWith_wire (lut : Lut) (s : State) :
    (renderWith lut s).wire = s.wire := by rw [renderWith, State.setPhys_wire]

/-! ### The state after reset, and the reset interface -/

@[simp] theorem State.reset_grid : State.reset.grid = Vector.replicate 119 Pixel.black := by rw [State.reset]
@[simp] theorem State.reset_rot : State.reset.rot = .r0 := by rw [State.reset]
@[simp] theorem State.reset_flipX : State.reset.flipX = false := by rw [State.reset]
@[simp] theorem State.reset_flipY : State.reset.flipY = false := by rw [State.reset]
@[simp] theorem State.reset_bri : State.reset.bri = Config.params.briReset := by rw [State.reset]
@[simp] theorem State.reset_inited : State.reset.inited = false := by rw [State.reset]
@[simp] theorem State.reset_phys : State.reset.phys = [] := by rw [State.reset]
@[simp] theorem State.reset_hung : State.reset.hung = false := by rw [State.reset]
@[simp] theorem State.reset_resetLine : State.reset.resetLine = .idle := by rw [State.reset]
@[simp] theorem State.reset_pending : State.reset.pending = [] := by rw [State.reset]
@[simp] theorem State.reset_answers : State.reset.answers = [] := by rw [State.reset]
@[simp] theorem State.reset_responses : State.reset.responses = [] := by rw [State.reset]
@[simp] theorem State.reset_wire : State.reset.wire = [] := by rw [State.reset]
@[simp] theorem State.applyReset_grid (s : State) : s.applyReset.grid = Vector.replicate 119 Pixel.black := by
  simp only [State.applyReset, State.reset_grid]
@[simp] theorem State.applyReset_rot (s : State) : s.applyReset.rot = .r0 := by
  simp only [State.applyReset, State.reset_rot]
@[simp] theorem State.applyReset_flipX (s : State) : s.applyReset.flipX = false := by
  simp only [State.applyReset, State.reset_flipX]
@[simp] theorem State.applyReset_flipY (s : State) : s.applyReset.flipY = false := by
  simp only [State.applyReset, State.reset_flipY]
@[simp] theorem State.applyReset_bri (s : State) : s.applyReset.bri = Config.params.briReset := by
  simp only [State.applyReset, State.reset_bri]
@[simp] theorem State.applyReset_inited (s : State) : s.applyReset.inited = false := by
  simp only [State.applyReset, State.reset_inited]
@[simp] theorem State.applyReset_phys (s : State) : s.applyReset.phys = [] := by
  simp only [State.applyReset, State.reset_phys]
@[simp] theorem State.applyReset_hung (s : State) : s.applyReset.hung = false := by
  simp only [State.applyReset, State.reset_hung]
@[simp] theorem State.applyReset_resetLine (s : State) : s.applyReset.resetLine = .idle := by
  simp only [State.applyReset, State.reset_resetLine]
@[simp] theorem State.applyReset_pending (s : State) : s.applyReset.pending = s.pending := by
  simp only [State.applyReset]
@[simp] theorem State.applyReset_answers (s : State) : s.applyReset.answers = s.answers := by
  simp only [State.applyReset]
@[simp] theorem State.applyReset_responses (s : State) : s.applyReset.responses = s.responses := by
  simp only [State.applyReset]
@[simp] theorem State.applyReset_wire (s : State) : s.applyReset.wire = s.wire := by
  simp only [State.applyReset]

/-! ### Driving the reset interface -/

@[simp] theorem State.setResetLine_grid (s : State) (v : ResetLine) : (s.setResetLine v).grid = s.grid := rfl
@[simp] theorem State.setResetLine_rot (s : State) (v : ResetLine) : (s.setResetLine v).rot = s.rot := rfl
@[simp] theorem State.setResetLine_flipX (s : State) (v : ResetLine) : (s.setResetLine v).flipX = s.flipX := rfl
@[simp] theorem State.setResetLine_flipY (s : State) (v : ResetLine) : (s.setResetLine v).flipY = s.flipY := rfl
@[simp] theorem State.setResetLine_bri (s : State) (v : ResetLine) : (s.setResetLine v).bri = s.bri := rfl
@[simp] theorem State.setResetLine_inited (s : State) (v : ResetLine) : (s.setResetLine v).inited = s.inited := rfl
@[simp] theorem State.setResetLine_phys (s : State) (v : ResetLine) : (s.setResetLine v).phys = s.phys := rfl
@[simp] theorem State.setResetLine_hung (s : State) (v : ResetLine) : (s.setResetLine v).hung = s.hung := rfl
@[simp] theorem State.setResetLine_pending (s : State) (v : ResetLine) : (s.setResetLine v).pending = s.pending := rfl
@[simp] theorem State.setResetLine_answers (s : State) (v : ResetLine) : (s.setResetLine v).answers = s.answers := rfl
@[simp] theorem State.setResetLine_responses (s : State) (v : ResetLine) : (s.setResetLine v).responses = s.responses := rfl
@[simp] theorem State.setResetLine_wire (s : State) (v : ResetLine) : (s.setResetLine v).wire = s.wire := rfl
@[simp] theorem State.setResetLine_resetLine (s : State) (v : ResetLine) : (s.setResetLine v).resetLine = v := rfl

/-! ### Reset in the middle of an operation -/

@[simp] theorem State.resetDuring_grid (s u : State) (k : Nat) :
    (s.resetDuring u k).grid = Vector.replicate 119 Pixel.black := by simp only [State.resetDuring, State.reset_grid]
@[simp] theorem State.resetDuring_rot (s u : State) (k : Nat) : (s.resetDuring u k).rot = .r0 := by
  simp only [State.resetDuring, State.reset_rot]
@[simp] theorem State.resetDuring_flipX (s u : State) (k : Nat) : (s.resetDuring u k).flipX = false := by
  simp only [State.resetDuring, State.reset_flipX]
@[simp] theorem State.resetDuring_flipY (s u : State) (k : Nat) : (s.resetDuring u k).flipY = false := by
  simp only [State.resetDuring, State.reset_flipY]
@[simp] theorem State.resetDuring_bri (s u : State) (k : Nat) : (s.resetDuring u k).bri = Config.params.briReset := by
  simp only [State.resetDuring, State.reset_bri]
@[simp] theorem State.resetDuring_inited (s u : State) (k : Nat) : (s.resetDuring u k).inited = false := by
  simp only [State.resetDuring, State.reset_inited]
@[simp] theorem State.resetDuring_phys (s u : State) (k : Nat) : (s.resetDuring u k).phys = [] := by
  simp only [State.resetDuring, State.reset_phys]
@[simp] theorem State.resetDuring_hung (s u : State) (k : Nat) : (s.resetDuring u k).hung = false := by
  simp only [State.resetDuring, State.reset_hung]
@[simp] theorem State.resetDuring_resetLine (s u : State) (k : Nat) : (s.resetDuring u k).resetLine = .idle := by
  simp only [State.resetDuring, State.reset_resetLine]
@[simp] theorem State.resetDuring_pending (s u : State) (k : Nat) : (s.resetDuring u k).pending = u.pending := by
  simp only [State.resetDuring]

/-- The frames presented before the reset, for an operation that would have presented the frames es. -/
theorem State.resetDuring_wire {s u : State} {es : List Emission} (h : u.wire = s.wire ++ es) (k : Nat) :
    (s.resetDuring u k).wire = s.wire ++ es.take k := by
  simp [State.resetDuring, h]

theorem State.resetDuring_answers {s u : State} {es : List Emission} (h : u.wire = s.wire ++ es) (k : Nat) :
    (s.resetDuring u k).answers = s.answers.drop (es.take k).length := by
  simp [State.resetDuring, h]

theorem State.resetDuring_responses {s u : State} {es : List Emission} (h : u.wire = s.wire ++ es) (k : Nat) :
    (s.resetDuring u k).responses = if k ≤ es.length then s.responses else u.responses := by
  simp [State.resetDuring, h]

/-- Where no operation starts, a reset during the next one is a reset like any other. -/
theorem State.resetDuring_self (s : State) (k : Nat) : s.resetDuring (s.setResetLine .idle) k = s.applyReset := by
  simp [State.resetDuring, State.applyReset]

/-! ### Reading one entry of G -/

theorem State.pixel_eq (s : State) (i : PixelIndex) : s.pixel i = s.grid[i.val] := rfl

@[simp] theorem State.pixel_setPixelAt (s : State) (i j : PixelIndex) (p : Pixel) :
    (s.setPixelAt i p).pixel j = if j = i then p else s.pixel j := by
  rw [State.pixel_eq, State.pixel_eq, State.setPixelAt_grid, Vector.getElem_set]
  by_cases h : j = i
  · simp [h]
  · have : i.val ≠ j.val := fun e => h (Fin.ext e.symm)
    simp [h, this]

@[simp] theorem State.pixel_fillGrid (s : State) (i : PixelIndex) (p : Pixel) : (s.fillGrid p).pixel i = p := by
  rw [State.pixel_eq, State.fillGrid_grid, Vector.getElem_replicate]

/-- Two grids with the same entries are the same grid. -/
theorem grid_ext {g g' : Grid} (h : ∀ i : PixelIndex, g.get i = g'.get i) : g = g' :=
  Vector.ext fun i hi => h ⟨i, hi⟩

/-! ### What the transport answers after some frames -/

/-- After one frame the answers have moved on by one. -/
@[simp] theorem State.answerAt_addEmission (s : State) (k : Link) (b : List Byte) (a : Answer) (j : Nat) :
    (s.addEmission k b a).answerAt j = s.answerAt (j + 1) := by
  simp [State.answerAt, Nat.add_comm 1 j, Nat.add_assoc]

/-- A state whose answers and frames are another's is answered like it. -/
theorem State.answerAt_congr {s t : State} (ha : t.answers = s.answers) (hw : t.wire = s.wire) :
    t.answerAt = s.answerAt := by
  funext k
  simp [State.answerAt, ha, hw]

end Sys2Proof.Machine
end

