-- ==== Sys2Proof/Laws/Memory.lean ====
section
/-!
SUPPORT. PHYS: reading after writing, the canonical form, the buffer as a byte sequence, and the payload slices.
-/

namespace Sys2Proof.Laws

open Sys2Proof.Machine

/-! ### The canonical form -/

/-- An offset below every listed one reads as 0. -/
theorem lookup_of_lt {m : Memory} {a : Nat} (h : ∀ c ∈ m, a < c.1) : Memory.lookup m a = 0#8 := by
  induction m with
  | nil => rfl
  | cons c m ih =>
    have hc := h c (List.mem_cons_self ..)
    rw [Memory.lookup, if_neg (by omega), ih fun d hd => h d (List.mem_cons_of_mem _ hd)]

theorem lookup_push {m : Memory} {a : Nat} {v : Byte} (h : ∀ c ∈ m, a < c.1) (b : Nat) :
    Memory.lookup (Memory.push a v m) b = if b = a then v else Memory.lookup m b := by
  unfold Memory.push
  split
  · next hv =>
    by_cases hb : b = a
    · rw [if_pos hb, hb, lookup_of_lt h, hv]
    · rw [if_neg hb]
  · rw [Memory.lookup]

/-- Reading after writing, by key: the written value at the written key, what was there elsewhere. -/
theorem lookup_insert {m : Memory} (h : m.Pairwise fun c d => c.1 < d.1) (a : Nat) (v : Byte) (b : Nat) :
    Memory.lookup (Memory.insert m a v) b = if b = a then v else Memory.lookup m b := by
  induction m with
  | nil => exact lookup_push (fun c hc => absurd hc (List.not_mem_nil)) b
  | cons c m ih =>
    obtain ⟨hc, hm⟩ := List.pairwise_cons.1 h
    unfold Memory.insert
    by_cases h1 : a < c.1
    · rw [if_pos h1]
      refine lookup_push (fun d hd => ?_) b
      rcases List.mem_cons.1 hd with rfl | hd
      · exact h1
      · exact Nat.lt_trans h1 (hc d hd)
    · rw [if_neg h1]
      by_cases h2 : a = c.1
      · rw [if_pos h2, lookup_push (fun d hd => h2 ▸ hc d hd) b, Memory.lookup]
        by_cases hb : b = a
        · rw [if_pos hb, if_pos hb]
        · rw [if_neg hb, if_neg hb, if_neg (fun e => hb (e.trans h2.symm))]
      · rw [if_neg h2, Memory.lookup, Memory.lookup, ih hm]
        by_cases hb : b = c.1
        · rw [if_pos hb, if_pos hb, if_neg (fun e => h2 (e.symm.trans hb))]
        · rw [if_neg hb, if_neg hb]

/-- Every entry after a write is an entry of before or the written one, which is not 0. -/
theorem mem_insert {m : Memory} {a : Nat} {v : Byte} {c : Host.Cell} (h : c ∈ Memory.insert m a v) :
    c ∈ m ∨ c = (a, v) ∧ v ≠ 0#8 := by
  have push {m' : Memory} (h : c ∈ Memory.push a v m') : c ∈ m' ∨ c = (a, v) ∧ v ≠ 0#8 := by
    unfold Memory.push at h
    split at h
    · exact .inl h
    · next hv =>
      rcases List.mem_cons.1 h with h | h
      · exact .inr ⟨h, hv⟩
      · exact .inl h
  induction m with
  | nil => exact push h
  | cons d m ih =>
    unfold Memory.insert at h
    split at h
    · exact push h
    · split at h
      · exact (push h).imp_left (List.mem_cons_of_mem _)
      · rcases List.mem_cons.1 h with h | h
        · exact .inl (h ▸ List.mem_cons_self ..)
        · exact (ih h).imp_left (List.mem_cons_of_mem _)

theorem pairwise_push {m : Memory} (hm : m.Pairwise fun c d => c.1 < d.1) {a : Nat} {v : Byte}
    (h : ∀ c ∈ m, a < c.1) : (Memory.push a v m).Pairwise fun c d => c.1 < d.1 := by
  unfold Memory.push
  split
  · exact hm
  · exact List.pairwise_cons.2 ⟨h, hm⟩

theorem pairwise_insert {m : Memory} (h : m.Pairwise fun c d => c.1 < d.1) (a : Nat) (v : Byte) :
    (Memory.insert m a v).Pairwise fun c d => c.1 < d.1 := by
  induction m with
  | nil => exact pairwise_push h fun _ hc => absurd hc List.not_mem_nil
  | cons c m ih =>
    obtain ⟨hc, hm⟩ := List.pairwise_cons.1 h
    unfold Memory.insert
    split
    · next h1 =>
      refine pairwise_push h fun d hd => ?_
      rcases List.mem_cons.1 hd with rfl | hd
      · exact h1
      · exact Nat.lt_trans h1 (hc d hd)
    · next h1 =>
      split
      · next h2 => exact pairwise_push hm fun d hd => h2 ▸ hc d hd
      · next h2 =>
        refine List.pairwise_cons.2 ⟨fun d hd => ?_, ih hm⟩
        rcases mem_insert hd with hd | ⟨rfl, -⟩
        · exact hc d hd
        · show c.1 < a
          omega

/-- The zeroed buffer is in canonical form. -/
theorem wf_zero : Memory.wf Memory.zero := ⟨List.Pairwise.nil, fun _ hc => absurd hc List.not_mem_nil⟩

/-- A write keeps the canonical form. -/
theorem wf_write {m : Memory} (h : Memory.wf m) (a : PhysAddr) (v : Byte) : Memory.wf (m.write a v) := by
  refine ⟨pairwise_insert h.1 a.val v, fun c hc => ?_⟩
  rcases mem_insert hc with hc | ⟨rfl, hv⟩
  · exact h.2 c hc
  · exact ⟨a.isLt, hv⟩

/-- Reading after writing. -/
theorem read_write {m : Memory} (h : Memory.wf m) (a b : PhysAddr) (v : Byte) :
    (m.write a v).read b = if b = a then v else m.read b := by
  rw [Memory.read, Memory.write, lookup_insert h.1, Memory.read]
  simp only [Fin.ext_iff]

@[simp] theorem read_zero (a : PhysAddr) : Memory.zero.read a = 0#8 := rfl

/-- A key the list does not hold reads as 0. -/
theorem lookup_of_not_mem {m : Memory} {a : Nat} (h : ∀ c ∈ m, c.1 ≠ a) : Memory.lookup m a = 0#8 := by
  induction m with
  | nil => rfl
  | cons c m ih =>
    rw [Memory.lookup, if_neg (fun e => h c (List.mem_cons_self ..) e.symm),
      ih fun d hd => h d (List.mem_cons_of_mem _ hd)]

/-- A listed key reads as its byte. -/
theorem lookup_of_mem {m : Memory} (h : m.Pairwise fun c d => c.1 < d.1) {c : Host.Cell} (hc : c ∈ m) :
    Memory.lookup m c.1 = c.2 := by
  induction m with
  | nil => cases hc
  | cons d m ih =>
    obtain ⟨hd, hm⟩ := List.pairwise_cons.1 h
    rcases List.mem_cons.1 hc with rfl | hc
    · rw [Memory.lookup, if_pos rfl]
    · have := hd c hc
      rw [Memory.lookup, if_neg (by omega), ih hm hc]

/-! ### The buffer as a sequence, and its slices -/

theorem bytes_length (m : Memory) : m.bytes.length = 448 := by
  simp [Memory.bytes]

theorem bytes_getElem (m : Memory) {i : Nat} (h : i < m.bytes.length) :
    m.bytes[i] = m.read ⟨i, by rw [bytes_length] at h; exact h⟩ := by
  simp [Memory.bytes]

theorem slice_length {buf : List Byte} {base n : Nat} (h : base + n ≤ buf.length) : (slice buf base n).length = n := by
  simp only [slice, List.length_take, List.length_drop]
  omega

end Sys2Proof.Laws
end

