-- ==== Sys2Proof/Laws/Links.lean ====
section
/-!
SUPPORT. What a sequence of transfers does: the frames it presents, how it ends, and the state it leaves; and what an
operation that transfers leaves.
-/

namespace Sys2Proof.Laws

open Sys2Proof.Machine

/-- The frames of a list of transfers with their links, in the order of R64. -/
def linkFrames (fs : List (List Byte × List Byte)) : List (Link × List Byte) :=
  fs.flatMap fun f => [(.link0, f.1), (.link1, f.2)]

/-- The state after the given frames were presented. -/
def afterFrames (s : State) (es : List Emission) (a : Answer) : State :=
  { s with answers := s.answers.drop es.length, wire := s.wire ++ es, hung := s.hung || a == .never }

/-- An answer success leaves no operation in progress. -/
@[simp] theorem success_beq_never : (Answer.success == Answer.never) = false := rfl

@[simp] theorem failure_beq_never : (Answer.failure == Answer.never) = false := rfl

@[simp] theorem afterFrames_nil (s : State) : afterFrames s [] .success = s := by
  simp [afterFrames]

/-- A frame that is taken, and then others. -/
theorem afterFrames_addEmission (s : State) (k : Link) (b : List Byte) (es : List Emission) (a : Answer) :
    afterFrames (s.addEmission k b .success) es a = afterFrames s (⟨k, b, .success⟩ :: es) a := by
  simp [afterFrames, State.addEmission]

/-- A frame that is not taken. -/
theorem addEmission_eq_afterFrames (s : State) (k : Link) (b : List Byte) (a : Answer) :
    s.addEmission k b a = afterFrames s [⟨k, b, a⟩] a := by
  simp [afterFrames, State.addEmission]

/-- What a sequence of transfers does, once for all: it presents frames in link order up to the first that is not taken,
and ends with that frame's answer. -/
theorem transferAll_eq (fs : List (List Byte × List Byte)) (s : State) :
    transferAll fs s =
      (ending (linkFrames fs) s.answerAt,
        afterFrames s (presented (linkFrames fs) s.answerAt) (ending (linkFrames fs) s.answerAt)) := by
  induction fs generalizing s with
  | nil => simp [transferAll, linkFrames, ending, presented]
  | cons f fs ih =>
    have hl : linkFrames (f :: fs) = (.link0, f.1) :: (.link1, f.2) :: linkFrames fs := rfl
    rw [hl, transferAll, transfer, emit]
    rcases h0 : s.answerAt 0 with _ | _ | _
    · have hans (k : Link) (b : List Byte) (a : Answer) (t : State) :
          (t.addEmission k b a).answerAt = fun j => t.answerAt (j + 1) :=
        funext (State.answerAt_addEmission t k b a)
      simp only [emit, State.answerAt_addEmission, Nat.zero_add]
      rcases h1 : s.answerAt 1 with _ | _ | _
      · simp only [ih, hans, presented, ending, h0, h1, Nat.zero_add, Nat.add_assoc,
          afterFrames_addEmission]
      · simp [presented, ending, h0, h1, addEmission_eq_afterFrames _ .link1, afterFrames_addEmission]
      · simp [presented, ending, h0, h1, addEmission_eq_afterFrames _ .link1, afterFrames_addEmission]
    · simp [presented, ending, h0, addEmission_eq_afterFrames]
    · simp [presented, ending, h0, addEmission_eq_afterFrames]

/-- A single transfer is a sequence of one. -/
theorem transfer_eq_transferAll (f : List Byte × List Byte) (s : State) : transfer f s = transferAll [f] s := by
  rw [transferAll]
  split <;> rename_i h
  · rw [h, transferAll]
  · rfl

/-! ### How a sequence ends -/

/-- Every frame is presented where every answer is success. -/
theorem ending_of_success {fs : List (Link × List Byte)} {ans : Nat → Answer} (h : ∀ j < fs.length, ans j = .success) :
    ending fs ans = .success := by
  induction fs generalizing ans with
  | nil => rfl
  | cons f fs ih =>
    have h0 := h 0 (by simp)
    simp only [ending, h0]
    exact ih fun j hj => h (j + 1) (by simpa using hj)

/-- … and each with the answer success. -/
theorem presented_of_success {fs : List (Link × List Byte)} {ans : Nat → Answer}
    (h : ∀ j < fs.length, ans j = .success) :
    presented fs ans = fs.map fun f => ⟨f.1, f.2, .success⟩ := by
  induction fs generalizing ans with
  | nil => rfl
  | cons f fs ih =>
    have h0 := h 0 (by simp)
    simp only [presented, h0, List.map_cons]
    rw [ih fun j hj => h (j + 1) (by simpa using hj)]

/-- No more frames are presented than the sequence has. -/
theorem presented_length_le (fs : List (Link × List Byte)) (ans : Nat → Answer) :
    (presented fs ans).length ≤ fs.length := by
  induction fs generalizing ans with
  | nil => simp [presented]
  | cons f fs ih =>
    simp only [presented, List.length_cons]
    split
    · have := ih fun j => ans (j + 1)
      omega
    · simp
    · simp

/-- A presented frame is a frame of the sequence. -/
theorem mem_presented {fs : List (Link × List Byte)} {ans : Nat → Answer} {e : Emission} (h : e ∈ presented fs ans) :
    (e.link, e.bytes) ∈ fs := by
  induction fs generalizing ans with
  | nil => simp [presented] at h
  | cons f fs ih =>
    simp only [presented, List.mem_cons] at h
    rcases h with rfl | h
    · simp
    · split at h
      · exact List.mem_cons_of_mem _ (ih h)
      · simp at h
      · simp at h

/-- A sequence that does not end in success ends with the answer of the last frame presented. -/
theorem getLast_presented {fs : List (Link × List Byte)} {ans : Nat → Answer} {a : Answer} (h : ending fs ans = a)
    (ha : a ≠ .success) : ∃ e, (presented fs ans).getLast? = some e ∧ e.answer = a := by
  induction fs generalizing ans with
  | nil => exact absurd h.symm ha
  | cons f fs ih =>
    rcases h0 : ans 0 with _ | _ | _
    · rw [ending, h0] at h
      obtain ⟨e, he, hea⟩ := ih h
      refine ⟨e, ?_, hea⟩
      simp [presented, h0, List.getLast?_cons, he]
    · rw [ending, h0] at h
      exact ⟨⟨f.1, f.2, .failure⟩, by simp [presented, h0], h⟩
    · rw [ending, h0] at h
      exact ⟨⟨f.1, f.2, .never⟩, by simp [presented, h0], h⟩

end Sys2Proof.Laws
end

