-- ==== Sys2Proof/Laws/Render.lean ====
section
/-!
SUPPORT. The Orientation Transform in plain arithmetic, and what RENDER leaves in each byte of PHYS.
-/

namespace Sys2Proof.Laws

open Sys2Proof.Machine

/-! ### Addressing -/

/-- getOffset answers an index exactly for a position in range, and then x × 7 + y (R160). -/
theorem getOffset_eq_ok {x y : Int} {i : PixelIndex} :
    getOffset x y = .ok i ↔ InRange x y ∧ (i.val : Int) = x * 7 + y := by
  unfold getOffset
  split
  · next h =>
    have ⟨h1, h2, h3, h4⟩ := h
    simp only [Except.ok.injEq, Fin.ext_iff]
    constructor
    · intro e
      exact ⟨h, by omega⟩
    · rintro ⟨-, e⟩
      omega
  · next h => simp [h]

/-- Otherwise it answers InvalidPixel. -/
theorem getOffset_of_not_inRange {x y : Int} (h : ¬ InRange x y) : getOffset x y = .error .invalidPixel := by
  rw [getOffset, dif_neg h]

/-- crop as a minimum and a maximum (R121). -/
theorem crop_eq (v : Int) {bound : Nat} (h : 0 < bound) : (crop v bound : Int) = max 0 (min v ((bound : Int) - 1)) := by
  unfold crop
  split
  · omega
  · split <;> omega

theorem flipAxis_eq {last v : Nat} (f : Bool) (h : v ≤ last) :
    (flipAxis last f v : Int) = if f then (last : Int) - v else v := by
  unfold flipAxis
  split <;> omega

/-- The canonical index is the formula of R127. -/
theorem canonicalIndex_eq (rot : Rotation) (fx fy : Bool) (x y : Int) :
    ((canonicalIndex rot fx fy x y).val : Int) = canonicalFormula rot fx fy x y := by
  have hx (v : Int) : crop v 17 ≤ 16 := Nat.le_of_lt_succ (crop_lt v (by decide))
  have hy (v : Int) : crop v 7 ≤ 6 := Nat.le_of_lt_succ (crop_lt v (by decide))
  have cx (v : Int) := crop_eq v (bound := 17) (by decide)
  have cy (v : Int) := crop_eq v (bound := 7) (by decide)
  cases rot <;>
    simp [canonicalIndex, canonicalFormula, rotated, effectiveFlips, finalX, finalY, flipAxis_eq _ (hx _),
      flipAxis_eq _ (hy _), cx, cy]

/-- Every storage index is the index of a position in range (R160). -/
theorem inRange_of_storage (i : PixelIndex) : InRange ((i.val / 7 : Nat) : Int) ((i.val % 7 : Nat) : Int) := by
  have := i.isLt
  refine ⟨?_, ?_, ?_, ?_⟩ <;> omega

/-- RENDER's range check never fails (R167: "cannot raise here"). -/
theorem resolvePosition_of_storage (rot : Rotation) (fx fy : Bool) (i : PixelIndex) :
    resolvePosition ((i.val / 7 : Nat) : Int) ((i.val % 7 : Nat) : Int) rot fx fy = .ok (laneIndex rot fx fy i) := by
  rw [resolvePosition, if_pos (inRange_of_storage i), laneIndex]

/-! ### The last write wins -/

/-- The writes of one lane, in their order. -/
def laneWrites (e : LutEntry) (p : Pixel) : List (PhysAddr × Byte) :=
  [(e.rOff, byteOf p.r), (e.gOff, byteOf p.g), (e.bOff, byteOf p.b)]

/-- Writing a list of bytes, one after the other. -/
def writeAll (ws : List (PhysAddr × Byte)) (m : Memory) : Memory := ws.foldl (fun m w => m.write w.1 w.2) m

theorem wf_writeAll {m : Memory} (h : Memory.wf m) (ws : List (PhysAddr × Byte)) : Memory.wf (writeAll ws m) := by
  induction ws generalizing m with
  | nil => exact h
  | cons w ws ih => exact ih (wf_write h w.1 w.2)

/-- After a list of writes a byte holds the value of the last write to it, or what it held before. -/
theorem read_writeAll {m : Memory} (h : Memory.wf m) (ws : List (PhysAddr × Byte)) (a : PhysAddr) :
    (writeAll ws m).read a = (((ws.filter fun w => w.1 = a).getLast?).map Prod.snd).getD (m.read a) := by
  induction ws generalizing m with
  | nil => rfl
  | cons w ws ih =>
    rw [writeAll, List.foldl_cons, ← writeAll, ih (wf_write h w.1 w.2), read_write h, List.filter_cons]
    by_cases hw : w.1 = a
    · simp only [hw, decide_true, if_true, List.getLast?_cons]
      generalize (List.filter _ ws).getLast? = last
      cases last <;> rfl
    · rw [if_neg (fun e => hw e.symm), if_neg (by simpa using hw)]

/-- RENDER's buffer is what its writes leave in a zeroed one. -/
theorem renderBuffer_eq_writeAll (lut : Lut) (order : List PixelIndex) (g : Grid) (rot : Rotation) (fx fy : Bool) :
    renderBuffer lut order g rot fx fy =
      writeAll (order.flatMap fun i => laneWrites (lut (laneIndex rot fx fy i)) (g.get i)) Memory.zero := by
  rw [renderBuffer]
  generalize Memory.zero = m
  induction order generalizing m with
  | nil => rfl
  | cons i order ih =>
    rw [List.foldl_cons, ih, List.flatMap_cons, writeAll, writeAll, List.foldl_append]
    rfl

theorem wf_renderBuffer (lut : Lut) (order : List PixelIndex) (g : Grid) (rot : Rotation) (fx fy : Bool) :
    Memory.wf (renderBuffer lut order g rot fx fy) := by
  rw [renderBuffer_eq_writeAll]
  exact wf_writeAll wf_zero _

/-- Each byte after a render: the value of the last write to it, 0 where there is none. -/
theorem read_renderBuffer (lut : Lut) (order : List PixelIndex) (g : Grid) (rot : Rotation) (fx fy : Bool)
    (a : PhysAddr) :
    (renderBuffer lut order g rot fx fy).read a =
      lastWrite (order.flatMap fun i => laneWrites (lut (laneIndex rot fx fy i)) (g.get i)) a := by
  rw [renderBuffer_eq_writeAll, read_writeAll wf_zero, lastWrite, read_zero]

/-- What a byte holds after writes is a value some write had, or 0. -/
theorem lastWrite_cases (ws : List (PhysAddr × Byte)) (a : PhysAddr) :
    (∃ w ∈ ws, w.1 = a ∧ lastWrite ws a = w.2) ∨ (∀ w ∈ ws, w.1 ≠ a) ∧ lastWrite ws a = 0#8 := by
  unfold lastWrite
  generalize h : (List.filter _ ws).getLast? = last
  rcases last with _ | w
  · right
    refine ⟨fun w hw e => ?_, rfl⟩
    have hn := List.filter_eq_nil_iff.1 (List.getLast?_eq_none_iff.1 h) w hw
    exact hn (by simpa using e)
  · left
    have hm := List.mem_of_getLast? h
    rw [List.mem_filter] at hm
    exact ⟨w, hm.1, by simpa using hm.2, rfl⟩

/-- Every byte RENDER leaves is in [0, 63] (R39 (b)). -/
theorem renderBuffer_sixBits (lut : Lut) (order : List PixelIndex) (g : Grid) (rot : Rotation) (fx fy : Bool)
    (a : PhysAddr) : ((renderBuffer lut order g rot fx fy).read a).toNat ≤ 63 := by
  have six (c : BitVec 6) : (byteOf c).toNat ≤ 63 := by
    have := c.isLt
    simp only [byteOf, BitVec.toNat_setWidth]
    omega
  rw [read_renderBuffer]
  rcases lastWrite_cases (order.flatMap fun i => laneWrites (lut (laneIndex rot fx fy i)) (g.get i)) a with
    ⟨w, hw, -, e⟩ | ⟨-, e⟩
  · rw [e]
    obtain ⟨i, -, hi⟩ := List.mem_flatMap.1 hw
    simp only [laneWrites, List.mem_cons, List.not_mem_nil, or_false] at hi
    rcases hi with rfl | rfl | rfl <;> exact six _
  · rw [e]
    decide

end Sys2Proof.Laws
end

