-- ==== Sys2Proof/Laws/Exec.lean ====
section
/-!
SUPPORT. What the shared operations of the meanings do: acceptance, the end of a transfer, the plans of FRAME, SHOW and
INIT; and that every instruction answers a next state.
-/

namespace Sys2Proof.Laws

open Sys2Proof.Machine

/-! ### Acceptance -/

theorem hostOperation_of_ready {s : State} (hi : s.inited = true) (hh : s.hung = false) (run : State → State) :
    hostOperation s run = .next (run s) := by
  simp [hostOperation, State.ready, hi, hh]

theorem hostOperation_of_not_ready {s : State} (h : s.inited = false ∨ s.hung = true) (run : State → State) :
    hostOperation s run = .next s := by
  rcases h with h | h <;> simp [hostOperation, State.ready, h]

/-- A host operation leaves either its effect on a ready core or the state as it was. -/
theorem hostOperation_cases {s t : State} {run : State → State} (h : hostOperation s run = .next t) :
    (s.inited = true ∧ s.hung = false ∧ t = run s) ∨ ((s.inited = false ∨ s.hung = true) ∧ t = s) := by
  unfold hostOperation State.ready at h
  cases hi : s.inited <;> cases hh : s.hung <;> simp [hi, hh] at h <;> simp [h]

theorem anyTimeOperation_of_not_hung {s : State} (hh : s.hung = false) (run : State → State) :
    anyTimeOperation s run = .next (run s) := by
  simp [anyTimeOperation, hh]

theorem anyTimeOperation_of_hung {s : State} (hh : s.hung = true) (run : State → State) :
    anyTimeOperation s run = .next s := by
  simp [anyTimeOperation, hh]

theorem anyTimeOperation_cases {s t : State} {run : State → State} (h : anyTimeOperation s run = .next t) :
    (s.hung = false ∧ t = run s) ∨ (s.hung = true ∧ t = s) := by
  unfold anyTimeOperation at h
  cases hh : s.hung <;> simp [hh] at h <;> simp [h]

/-! ### Each meaning over its shared operation -/

theorem exec_setPixel (x y r g b : Byte) (s : State) :
    exec (.setPixel x y r g b) s = hostOperation s (storePixel x y (storedColour r g b)) := by
  rw [exec, execSetPixel]

theorem exec_getPixel (x y : Byte) (s : State) :
    exec (.getPixel x y) s = hostOperation s fun s => respondOr (getOffset (coordinate x) (coordinate y)) (fun i => pixelData (s.pixel i)) s := by
  rw [exec, execGetPixel]

theorem exec_clearPixel (x y : Byte) (s : State) :
    exec (.clearPixel x y) s = hostOperation s (storePixel x y Pixel.black) := by
  rw [exec, execClearPixel]

theorem exec_setAll (r g b : Byte) (s : State) :
    exec (.setAll r g b) s = hostOperation s fun s => respond 0#32 (s.fillGrid (storedColour r g b)) := by
  rw [exec, execSetAll]

theorem exec_clear (s : State) :
    exec .clear s = hostOperation s fun s => respond 0#32 (s.fillGrid Pixel.black) := by
  rw [exec, execClear]

theorem exec_getOffset (x y : Byte) (s : State) :
    exec (.getOffset x y) s = hostOperation s fun s => respondOr (Machine.getOffset (coordinate x) (coordinate y)) indexData s := by
  rw [exec, execGetOffset]

theorem exec_setRotation (deg : BitVec 16) (s : State) :
    exec (.setRotation deg) s = hostOperation s (storeRotation deg.toNat) := by
  rw [exec, execSetRotation]

theorem exec_getRotation (s : State) :
    exec .getRotation s = hostOperation s fun s => respond (rotationData s.rot) s := by
  rw [exec, execGetRotation]

theorem exec_flipX (s : State) :
    exec .flipX s = hostOperation s fun s => respond 0#32 s.toggleFlipX := by
  rw [exec, execFlipX]

theorem exec_flipY (s : State) :
    exec .flipY s = hostOperation s fun s => respond 0#32 s.toggleFlipY := by
  rw [exec, execFlipY]

theorem exec_setBrightness (code : Brightness) (s : State) :
    exec (.setBrightness code) s = hostOperation s fun s => respond 0#32 (s.setBri code) := by
  rw [exec, execSetBrightness]

theorem exec_getBrightness (s : State) :
    exec .getBrightness s = hostOperation s fun s => respond (brightnessData s.bri) s := by
  rw [exec, execGetBrightness]

theorem exec_resolve (x y : Byte) (s : State) :
    exec (.resolve x y) s = hostOperation s fun s =>
      respondOr (resolvePosition (coordinate x) (coordinate y) s.rot s.flipX s.flipY) indexData s := by
  rw [exec, execResolve]

theorem exec_lookup (c : BitVec 16) (s : State) :
    exec (.lookup c) s = hostOperation s (lookupWith Config.params.lut c) := by
  rw [exec, execLookup]

theorem exec_render (s : State) :
    exec .render s = hostOperation s fun s => respond 0#32 (renderWith Config.params.lut s) := by
  rw [exec, execRender]

theorem exec_frame (cmd : List Byte) (payload : Option Byte) (s : State) :
    exec (.frame cmd payload) s = hostOperation s (frameAndTransfer cmd payload) := by
  rw [exec, execFrame]

theorem exec_showDisplay (s : State) :
    exec .showDisplay s = hostOperation s (showWith Config.params) := by
  rw [exec, execShow]

theorem exec_init (s : State) :
    exec .init s = anyTimeOperation s (initWith Config.params) := by
  rw [exec, execInit]

theorem exec_softReset (s : State) :
    exec .softReset s = anyTimeOperation s (sendWire softResetFrames) := by
  rw [exec, execSoftReset]

theorem exec_globalBrightness (d : Byte) (s : State) :
    exec (.globalBrightness d) s = anyTimeOperation s (sendWire (globalBrightnessFrames d)) := by
  rw [exec, execGlobalBrightness]

theorem exec_comPinCtrl (c : Byte) (s : State) :
    exec (.comPinCtrl c) s = anyTimeOperation s (sendWire (comPinCtrlFrames c)) := by
  rw [exec, execComPinCtrl]

theorem exec_rowPinCtrl (a b c d : Byte) (s : State) :
    exec (.rowPinCtrl a b c d) s = anyTimeOperation s (sendWire (rowPinCtrlFrames a b c d)) := by
  rw [exec, execRowPinCtrl]

theorem exec_writeDisplay (a : Byte) (s : State) :
    exec (.writeDisplay a) s = anyTimeOperation s fun s => sendWire (writeDisplayFrames a s.phys.bytes) s := by
  rw [exec, execWriteDisplay]

theorem exec_readDisplay (s : State) :
    exec .readDisplay s = anyTimeOperation s (sendWire readDisplayFrames) := by
  rw [exec, execReadDisplay]

theorem exec_systemCtrl (d : Byte) (s : State) :
    exec (.systemCtrl d) s = anyTimeOperation s (sendWire (systemCtrlFrames d)) := by
  rw [exec, execSystemCtrl]

theorem exec_scrollCtrl (d : Byte) (s : State) :
    exec (.scrollCtrl d) s = anyTimeOperation s (sendWire (scrollCtrlFrames d)) := by
  rw [exec, execScrollCtrl]

/-- Every instruction answers a next state in every state. -/
theorem exec_answers_next (i : Instr) (s : State) : ∃ t, exec i s = .next t := by
  cases i <;> exact ⟨_, rfl⟩

/-! ### Response words -/

theorem hrw_toNat {status : Nat} (h : status < 256) (data : BitVec 32) :
    (hrw status data).toNat = status * 2 ^ 32 + data.toNat := by
  have := data.isLt
  rw [hrw, BitVec.toNat_ofNat, Nat.mod_eq_of_lt (by omega)]

/-- A response OK is its data. -/
theorem hrw_ok (data : BitVec 32) : hrw 0 data = BitVec.ofNat 40 data.toNat := by
  rw [hrw]
  congr 1
  omega

@[simp] theorem hrw_ok_zero : hrw 0 0#32 = 0x0000000000#40 := rfl

@[simp] theorem hrw_invalidPixel : hrw ErrorKind.invalidPixel.status 0#32 = 0x0100000000#40 := rfl

@[simp] theorem hrw_invalidArgument : hrw ErrorKind.invalidArgument.status 0#32 = 0x0200000000#40 := rfl

@[simp] theorem hrw_transferError : hrw ErrorKind.transferError.status 0#32 = 0x0300000000#40 := rfl

/-- Every response OK is legal (R89). -/
theorem legalResponse_ok (data : BitVec 32) : LegalResponse (hrw 0 data) := by
  have := data.isLt
  have e := hrw_toNat (status := 0) (by decide) data
  constructor <;> omega

/-- Every error response is legal: its DATA is 0. -/
theorem legalResponse_error (e : ErrorKind) : LegalResponse (hrw e.status 0#32) := by
  cases e <;> exact ⟨by decide, by decide⟩

/-! ### The payload slices -/

/-- Link k's slice of PHYS is its payload. -/
theorem slice_bytes_eq_payloadOf (m : Memory) (k : Link) {n : Nat} (h : n ≤ 224) :
    slice m.bytes k.base n = payloadOf m k n := by
  have hb : k.base + n ≤ 448 := by cases k <;> simp only [Link.base] <;> omega
  have hl := slice_length (buf := m.bytes) (base := k.base) (n := n) (by rw [bytes_length]; exact hb)
  refine List.ext_getElem (by rw [hl]; simp [payloadOf]) fun j h1 h2 => ?_
  simp only [slice, List.getElem_take, List.getElem_drop, bytes_getElem, payloadOf, List.getElem_map, List.getElem_range,
    Memory.read]

/-- The two frames of FRAME are its plan (R191 to R193). -/
theorem linkFrames_frame (cmd : List Byte) (payload : Option Byte) (s : State)
    (h : ∀ len, payload = some len → len.toNat ≤ 224) :
    linkFrames [frame cmd (framePayload payload s)] = framePlan cmd payload s.phys := by
  rcases payload with _ | len
  · rfl
  · have hl := h len rfl
    simp only [linkFrames, frame, framePayload, Option.map_some, List.flatMap_cons, List.flatMap_nil,
      List.append_nil, framePlan, slice_bytes_eq_payloadOf _ _ hl]

theorem linkFrames_writeDisplay (a : Byte) (m : Memory) :
    linkFrames [writeDisplayFrames a m.bytes] =
      [(.link0, 0x80#8 :: a :: payloadOf m .link0 224), (.link1, 0x80#8 :: a :: payloadOf m .link1 224)] := by
  simp only [linkFrames, writeDisplayFrames, frame, List.flatMap_cons, List.flatMap_nil, List.append_nil,
    slice_bytes_eq_payloadOf _ _ (Nat.le_refl 224), List.cons_append, List.nil_append]

/-- The four frames of SHOW are its plan (R223). -/
theorem linkFrames_show (p : Params) (s : State) :
    linkFrames (showFrames p.wdAddr s) = showPlan p s.phys s.bri := by
  have h := linkFrames_writeDisplay p.wdAddr s.phys
  simp only [linkFrames, List.flatMap_cons, List.flatMap_nil, List.append_nil] at h
  simp only [linkFrames, showFrames, List.flatMap_cons, List.flatMap_nil, List.append_nil, h]
  rfl

theorem slice_zeroBuffer (k : Link) : slice zeroBuffer k.base 224 = List.replicate 224 0#8 := by
  have h : min 224 (448 - k.base) = 224 := by cases k <;> decide
  rw [slice, zeroBuffer, List.drop_replicate, List.take_replicate, h]

/-- The 16 frames of INIT are its plan (R225). -/
theorem linkFrames_init (p : Params) : linkFrames (initFrames p) = initPlan p := by
  simp only [linkFrames, initFrames, List.flatMap_cons, List.flatMap_nil, List.append_nil, writeDisplayFrames, frame,
    slice_zeroBuffer, initPlan, onBothLinks, softResetFrames, globalBrightnessFrames, scrollCtrlFrames,
    systemCtrlFrames, comPinCtrlFrames, rowPinCtrlFrames, List.cons_append, List.nil_append]

/-! ### The end of an operation that transfers -/

/-- What an operation that transfers leaves, by how its frames end (R243, R250). -/
theorem finishTransfer_transferAll (fs : List (List Byte × List Byte)) (s : State) (onSuccess : State → State) :
    finishTransfer (transferAll fs s) onSuccess =
      match ending (linkFrames fs) s.answerAt with
      | .success =>
        respond 0#32 (onSuccess (afterFrames s (presented (linkFrames fs) s.answerAt) .success))
      | .failure => raise .transferError (afterFrames s (presented (linkFrames fs) s.answerAt) .failure)
      | .never => afterFrames s (presented (linkFrames fs) s.answerAt) .never := by
  rw [transferAll_eq]
  rcases ending (linkFrames fs) s.answerAt with _ | _ | _ <;> rfl

/-- A wire command run on its own presents its two frames in link order (R196). -/
theorem sendWire_eq (f : List Byte × List Byte) (s : State) :
    sendWire f s = afterFrames s (presented (linkFrames [f]) s.answerAt) (ending (linkFrames [f]) s.answerAt) := by
  rw [sendWire, transfer_eq_transferAll, transferAll_eq]

end Sys2Proof.Laws
end

