-- ==== Sys2Proof/Laws/Step.lean ====
section
/-!
SUPPORT. The cases of the next request, said once: a hung operation, nothing issued, a request not accepted, an instruction
run, a word answered as illegal, bytes sent as they are; and those of a step: reset, the next request, the next request cut
short by reset.
-/

namespace Sys2Proof.Laws

open Sys2Proof.Machine

/-! ### The next request -/

theorem advance_of_hung {s : State} (hh : s.hung = true) : advance s = .next s := by
  rw [advance, if_pos hh]

theorem advance_of_idle {s : State} (hp : s.pending = []) : advance s = .next s := by
  unfold advance
  rw [hp]
  split <;> rfl

/-- A core that is not hung looks at the oldest request. -/
theorem advance_of_request {s : State} {r : Request} {rest : List Request} (hh : s.hung = false)
    (hp : s.pending = r :: rest) :
    advance s =
      if s.accepts r then
        match decode r with
        | .ok i => exec i (s.setPending rest)
        | .error _ => runUndecoded r (s.setPending rest)
      else .next s := by
  unfold advance
  rw [if_neg (by simp [hh])]
  split
  · next hn => rw [hp] at hn; cases hn
  · next r' rest' hn =>
    rw [hp] at hn
    cases hn
    rfl

theorem advance_of_ok {s : State} {r : Request} {rest : List Request} {i : Instr} (hh : s.hung = false)
    (hp : s.pending = r :: rest) (ha : s.accepts r = true) (hd : decode r = .ok i) :
    advance s = exec i (s.setPending rest) := by
  rw [advance_of_request hh hp, if_pos ha, hd]

theorem advance_of_error {s : State} {r : Request} {rest : List Request} {e : DecodeError} (hh : s.hung = false)
    (hp : s.pending = r :: rest) (ha : s.accepts r = true) (hd : decode r = .error e) :
    advance s = runUndecoded r (s.setPending rest) := by
  rw [advance_of_request hh hp, if_pos ha, hd]

theorem advance_of_not_accepted {s : State} {r : Request} {rest : List Request} (hh : s.hung = false)
    (hp : s.pending = r :: rest) (ha : s.accepts r = false) : advance s = .next s := by
  rw [advance_of_request hh hp, if_neg (by simp [ha])]

/-- Everything the core can do next: nothing; answer an illegal word; send bytes that are no wire command; run an
instruction. -/
theorem advance_cases {s t : State} (h : advance s = .next t) :
    t = s ∨
    (s.hung = false ∧ ∃ w rest e, s.pending = .word w :: rest ∧ s.inited = true ∧ decodeWord w = .error e ∧
      t = raise .invalidArgument (s.setPending rest)) ∨
    (s.hung = false ∧ ∃ bytes rest e, s.pending = .wire bytes :: rest ∧ decodeWire bytes = .error e ∧
      t = sendWire (frame bytes none) (s.setPending rest)) ∨
    (s.hung = false ∧ ∃ r rest i, s.pending = r :: rest ∧ s.accepts r = true ∧ decode r = .ok i ∧
      exec i (s.setPending rest) = .next t) := by
  rcases hh : s.hung with _ | _
  · rcases hp : s.pending with _ | ⟨r, rest⟩
    · rw [advance_of_idle hp] at h
      exact .inl (Host.Outcome.next.inj h).symm
    · rcases ha : s.accepts r with _ | _
      · rw [advance_of_not_accepted hh hp ha] at h
        exact .inl (Host.Outcome.next.inj h).symm
      · rcases hd : decode r with e | i
        · rw [advance_of_error hh hp ha hd] at h
          cases r with
          | wire bytes => exact .inr (.inr (.inl ⟨rfl, bytes, rest, e, rfl, hd, (Host.Outcome.next.inj h).symm⟩))
          | word w =>
            refine .inr (.inl ⟨rfl, w, rest, e, rfl, ?_, hd, (Host.Outcome.next.inj h).symm⟩)
            have hd' : decodeWord w = .error e := hd
            simpa [State.accepts, Request.takenBeforeInit, hd'] using ha
        · rw [advance_of_ok hh hp ha hd] at h
          exact .inr (.inr (.inr ⟨rfl, r, rest, i, rfl, ha, hd, h⟩))
  · rw [advance_of_hung hh] at h
    exact .inl (Host.Outcome.next.inj h).symm

/-! ### A step -/

theorem step_of_idle {s : State} (hr : s.resetLine = .idle) : step s = advance s := by
  rw [step, hr]

theorem step_of_reset {s : State} (hr : s.resetLine = .asserted) : step s = .next s.applyReset := by
  rw [step, hr]

/-- A step cut short by reset. -/
theorem step_of_during {s u : State} {k : Nat} (hr : s.resetLine = .during k)
    (h : advance (s.setResetLine .idle) = .next u) :
    step s = .next (s.resetDuring u k) := by
  rw [step, hr, h]

theorem step_of_hung {s : State} (hr : s.resetLine = .idle) (hh : s.hung = true) : step s = .next s := by
  rw [step_of_idle hr, advance_of_hung hh]

theorem step_of_ok {s : State} {r : Request} {rest : List Request} {i : Instr} (hr : s.resetLine = .idle)
    (hh : s.hung = false) (hp : s.pending = r :: rest) (ha : s.accepts r = true) (hd : decode r = .ok i) :
    step s = exec i (s.setPending rest) := by
  rw [step_of_idle hr, advance_of_ok hh hp ha hd]

theorem step_of_error {s : State} {r : Request} {rest : List Request} {e : DecodeError} (hr : s.resetLine = .idle)
    (hh : s.hung = false) (hp : s.pending = r :: rest) (ha : s.accepts r = true) (hd : decode r = .error e) :
    step s = runUndecoded r (s.setPending rest) := by
  rw [step_of_idle hr, advance_of_error hh hp ha hd]

theorem step_of_not_accepted {s : State} {r : Request} {rest : List Request} (hr : s.resetLine = .idle)
    (hh : s.hung = false) (hp : s.pending = r :: rest) (ha : s.accepts r = false) : step s = .next s := by
  rw [step_of_idle hr, advance_of_not_accepted hh hp ha]

/-- Everything a step that answers a next state can be. -/
theorem step_cases {s t : State} (h : step s = .next t) :
    (s.resetLine = .asserted ∧ t = s.applyReset) ∨
    (s.resetLine = .idle ∧ advance s = .next t) ∨
    ∃ k u, s.resetLine = .during k ∧ advance (s.setResetLine .idle) = .next u ∧ t = s.resetDuring u k := by
  rcases hr : s.resetLine with _ | _ | k
  · exact .inr (.inl ⟨rfl, step_of_idle hr ▸ h⟩)
  · rw [step_of_reset hr] at h
    exact .inl ⟨rfl, (Host.Outcome.next.inj h).symm⟩
  · rcases hu : advance (s.setResetLine .idle) with u | e | e
    · rw [step_of_during hr hu] at h
      exact .inr (.inr ⟨k, u, rfl, rfl, (Host.Outcome.next.inj h).symm⟩)
    · rw [step, hr, hu] at h
      cases h
    · rw [step, hr, hu] at h
      cases h

/-! ### When an instruction runs -/

/-- In UNINIT a request is accepted when it is INIT or a wire command (R252, assumption 5). -/
theorem accepts_of_ok {s : State} {r : Request} {i : Instr} (hd : decode r = .ok i)
    (h : s.inited = true ∨ i = .init ∨ IsWireCommand i = true) : s.accepts r = true := by
  unfold State.accepts
  rcases h with h | h | h
  · simp [h]
  · subst h
    cases r with
    | word w =>
      have hd' : decodeWord w = .ok .init := hd
      simp [Request.takenBeforeInit, hd']
    | wire b => simp [Request.takenBeforeInit]
  · cases r with
    | word w =>
      have := (encode_of_decodeWord hd).2
      simp [IsWireCommand, this] at h
    | wire b => simp [Request.takenBeforeInit]

/-- A host operation other than INIT has no effect on a core that is not ready (R252, R250). -/
theorem exec_of_not_ready {i : Instr} {s : State} (h : s.inited = false ∨ s.hung = true)
    (hw : IsWireCommand i = false) (hi : i ≠ .init) : exec i s = .next s := by
  cases i
  case init => exact absurd rfl hi
  all_goals first
    | cases hw; done
    | unfold exec; exact hostOperation_of_not_ready h _

/-- No instruction has an effect while an operation is hung (R250). -/
theorem exec_of_hung (i : Instr) {s : State} (h : s.hung = true) : exec i s = .next s := by
  cases i <;> unfold exec <;> first
    | exact hostOperation_of_not_ready (.inr h) _
    | exact anyTimeOperation_of_hung h _

end Sys2Proof.Laws
end

