-- ==== Sys2Proof/Laws/Effects.lean ====
section
/-!
SUPPORT. What one instruction can do, said once: not taken; a host operation that sends nothing; FRAME, SHOW, INIT and
a wire command, by how their frames end.
-/

namespace Sys2Proof.Laws

open Sys2Proof.Machine

/-! ### The shared bodies -/

/-- A store to a position in range writes entry x × 7 + y (R162). -/
theorem storePixel_of_inRange {x y : Byte} (h : InRange x.toInt y.toInt) (p : Pixel) (s : State) :
    ∃ i : PixelIndex, (i.val : Int) = x.toInt * 7 + y.toInt ∧ getOffset (coordinate x) (coordinate y) = .ok i ∧
      storePixel x y p s = respond 0#32 (s.setPixelAt i p) := by
  have he := (getOffset_eq_ok (x := x.toInt) (y := y.toInt) (i := ⟨(x.toInt * 7 + y.toInt).toNat, storage_lt h⟩)).2
    ⟨h, by have := h.1; have := h.2.2.1; simp; omega⟩
  refine ⟨_, (getOffset_eq_ok.1 he).2, he, ?_⟩
  have he' : getOffset (coordinate x) (coordinate y) = _ := he
  rw [storePixel, he']

/-- A store to any other position is InvalidPixel. -/
theorem storePixel_of_not_inRange {x y : Byte} (h : ¬ InRange x.toInt y.toInt) (p : Pixel) (s : State) :
    storePixel x y p s = raise .invalidPixel s := by
  have he : getOffset (coordinate x) (coordinate y) = _ := getOffset_of_not_inRange h
  rw [storePixel, he]

/-- RENDER writes PHYS and nothing else. -/
theorem renderWith_eq (lut : Lut) (s : State) :
    renderWith lut s = { s with phys := renderBuffer lut Config.renderOrder s.grid s.rot s.flipX s.flipY } := by
  rw [renderWith, State.setPhys]

/-- How an operation that transfers ends, from a state, with the frames presented and the last answer (R243, R250). -/
def endOf (a : Answer) (s : State) (es : List Emission) (onSuccess : State → State) : State :=
  match a with
  | .success => respond 0#32 (onSuccess (afterFrames s es .success))
  | .failure => raise .transferError (afterFrames s es .failure)
  | .never => afterFrames s es .never

/-- FRAME with a legal LEN (R195). -/
theorem frameAndTransfer_eq {cmd : List Byte} {payload : Option Byte} {s : State}
    (h : ∀ len, payload = some len → len.toNat ≤ 224) :
    frameAndTransfer cmd payload s =
      endOf (ending (framePlan cmd payload s.phys) s.answerAt) s (presented (framePlan cmd payload s.phys) s.answerAt)
        id := by
  have hn : ¬ 224 < (payload.getD 0#8).toNat := by
    rcases payload with _ | len
    · simp
    · have := h len rfl
      simp only [Option.getD_some]
      omega
  rw [frameAndTransfer, if_neg hn, finishTransfer_transferAll, linkFrames_frame _ _ _ h]
  rfl

/-- FRAME with LEN above 224 (R195). -/
theorem frameAndTransfer_of_long {cmd : List Byte} {len : Byte} {s : State} (h : 224 < len.toNat) :
    frameAndTransfer cmd (some len) s = raise .invalidArgument s := by
  rw [frameAndTransfer, if_pos (by simpa using h)]

/-- SHOW (R223), for the buffer its render step builds. -/
theorem showWith_eq (p : Params) (s : State) {m : Memory}
    (hm : m = renderBuffer p.lut Config.renderOrder s.grid s.rot s.flipX s.flipY) :
    showWith p s =
      endOf (ending (showPlan p m s.bri) s.answerAt) (s.setPhys m) (presented (showPlan p m s.bri) s.answerAt) id := by
  have ha : (s.setPhys m).answerAt = s.answerAt := State.answerAt_congr rfl rfl
  rw [showWith, renderWith, ← hm, finishTransfer_transferAll, linkFrames_show, ha]
  rfl

/-- INIT (R224). -/
theorem initWith_eq (p : Params) (s : State) :
    initWith p s =
      endOf (ending (initPlan p) s.answerAt) (s.setInited false) (presented (initPlan p) s.answerAt)
        fun u => u.setInited true := by
  rw [initWith, finishTransfer_transferAll, linkFrames_init, State.answerAt_congr (s := s) (by simp) (by simp)]
  rfl

/-! ### What the end of a transfer leaves -/

/-- The frames a transfer adds. -/
theorem endOf_wire {a : Answer} {s : State} {es : List Emission} {f : State → State}
    (hf : ∀ u, (f u).wire = u.wire) : (endOf a s es f).wire = s.wire ++ es := by
  cases a <;> simp [endOf, hf, afterFrames]

/-- Whether it leaves the operation in progress. -/
theorem endOf_hung {a : Answer} {s : State} {es : List Emission} {f : State → State}
    (hf : ∀ u, (f u).hung = u.hung) : (endOf a s es f).hung = (s.hung || a == .never) := by
  cases a <;> simp [endOf, hf, afterFrames]

/-- The last frame presented has the answer the sequence ends with. -/
theorem getLast_presented_answer {plan : List (Link × List Byte)} {ans : Nat → Answer} (hne : plan ≠ []) :
    ∃ e, (presented plan ans).getLast? = some e ∧ e.answer = ending plan ans := by
  induction plan generalizing ans with
  | nil => exact absurd rfl hne
  | cons f rest ih =>
    rcases h0 : ans 0 with _ | _ | _
    · rcases rest with _ | ⟨g, rest⟩
      · exact ⟨⟨f.1, f.2, .success⟩, by simp [presented, h0], by simp [ending, h0]⟩
      · obtain ⟨e, he, hea⟩ := ih (ans := fun j => ans (j + 1)) (by simp)
        refine ⟨e, ?_, by rw [hea]; conv => rhs; rw [ending, h0]⟩
        rw [presented, h0, List.getLast?_cons, he]
        rfl
    · exact ⟨⟨f.1, f.2, .failure⟩, by simp [presented, h0], by simp [ending, h0]⟩
    · exact ⟨⟨f.1, f.2, .never⟩, by simp [presented, h0], by simp [ending, h0]⟩

/-! ### One instruction -/

/-- The operand of i is out of range: the causes of InvalidPixel (R241). -/
def BadPixel (i : Instr) : Prop :=
  (∃ x y, ((∃ r g b, i = .setPixel x y r g b) ∨ i = .getPixel x y ∨ i = .clearPixel x y ∨ i = .getOffset x y ∨
      i = .resolve x y) ∧ ¬ (0 ≤ x.toInt ∧ x.toInt < 17 ∧ 0 ≤ y.toInt ∧ y.toInt < 7)) ∨
    ∃ c, i = .lookup c ∧ 119 ≤ c.toNat

/-- The operand of i is illegal: the causes of InvalidArgument among the operations (R242). -/
def BadArgument (i : Instr) : Prop :=
  (∃ deg, i = .setRotation deg ∧ deg.toNat ∉ [0, 90, 180, 270]) ∨
    ∃ cmd len, i = .frame cmd (some len) ∧ 224 < len.toNat

/-- What a host operation that sends nothing leaves on a ready core: a response OK after a change of the fields it
writes, or an error and no change. -/
inductive Quiet (s : State) (i : Instr) : State → Prop
  | ok (u : State) (v : BitVec 32)
      (same : u.inited = s.inited ∧ u.hung = s.hung ∧ u.resetLine = s.resetLine ∧ u.pending = s.pending ∧
        u.answers = s.answers ∧ u.responses = s.responses ∧ u.wire = s.wire)
      (phys : u.phys = s.phys ∨
        i = .render ∧ u.phys = renderBuffer Config.params.lut Config.renderOrder s.grid s.rot s.flipX s.flipY)
      (grid : u.grid = s.grid ∨ (∃ x y r g b, i = .setPixel x y r g b) ∨ (∃ x y, i = .clearPixel x y) ∨
        (∃ r g b, i = .setAll r g b) ∨ i = .clear)
      (rot : u.rot = s.rot ∨ ∃ deg, i = .setRotation deg)
      (flipX : u.flipX = s.flipX ∨ i = .flipX)
      (flipY : u.flipY = s.flipY ∨ i = .flipY)
      (bri : u.bri = s.bri ∨ ∃ code, i = .setBrightness code)
      (good : ¬ BadPixel i ∧ ¬ BadArgument i) : Quiet s i (respond v u)
  | invalidPixel (h : BadPixel i) : Quiet s i (raise .invalidPixel s)
  | invalidArgument (h : BadArgument i) : Quiet s i (raise .invalidArgument s)

/-- The six ways an instruction can go. -/
inductive Effect (s : State) (i : Instr) : State → Prop
  /-- It is not taken (R252, R250). -/
  | notTaken (h : s.hung = true ∨ s.inited = false ∧ IsWireCommand i = false ∧ i ≠ .init) : Effect s i s
  /-- A host operation that sends nothing, FRAME with an illegal LEN among them. -/
  | quiet (t : State) (hi : s.inited = true) (hh : s.hung = false) (hw : IsWireCommand i = false) (hn : i ≠ .init)
      (hs : i ≠ .showDisplay) (hf : ∀ cmd payload, i = .frame cmd payload → ∃ len, payload = some len ∧ 224 < len.toNat)
      (h : Quiet s i t) : Effect s i t
  /-- FRAME with a legal LEN. -/
  | frame (cmd : List Byte) (payload : Option Byte) (hi : s.inited = true) (hh : s.hung = false)
      (he : i = .frame cmd payload) (hl : ∀ len, payload = some len → len.toNat ≤ 224) :
      Effect s i (endOf (ending (framePlan cmd payload s.phys) s.answerAt) s
        (presented (framePlan cmd payload s.phys) s.answerAt) id)
  /-- SHOW. -/
  | shown (m : Memory) (hi : s.inited = true) (hh : s.hung = false) (he : i = .showDisplay)
      (hm : m = renderBuffer Config.params.lut Config.renderOrder s.grid s.rot s.flipX s.flipY) :
      Effect s i (endOf (ending (showPlan Config.params m s.bri) s.answerAt) (s.setPhys m)
        (presented (showPlan Config.params m s.bri) s.answerAt) id)
  /-- INIT. -/
  | init (hh : s.hung = false) (he : i = .init) :
      Effect s i (endOf (ending (initPlan Config.params) s.answerAt) (s.setInited false)
        (presented (initPlan Config.params) s.answerAt) fun u => u.setInited true)
  /-- A wire command. -/
  | wire (f : List Byte × List Byte) (hh : s.hung = false) (hw : IsWireCommand i = true)
      (hl : f.1.length = f.2.length) (h1 : 1 ≤ f.1.length) (h2 : f.1.length ≤ 229) :
      Effect s i (afterFrames s (presented (linkFrames [f]) s.answerAt) (ending (linkFrames [f]) s.answerAt))

/-- A wire command on a core that is not hung. -/
theorem effect_of_wire {i : Instr} {s t : State} (hh : s.hung = false) (hw : IsWireCommand i = true)
    (h : exec i s = .next t) : Effect s i t := by
  cases i <;> try (cases hw; done)
  case writeDisplay a =>
    rw [exec_writeDisplay, anyTimeOperation_of_not_hung hh, sendWire_eq] at h
    cases h
    refine .wire _ hh hw ?_ ?_ ?_ <;>
      simp [writeDisplayFrames, Machine.frame, slice_bytes_eq_payloadOf _ _ (Nat.le_refl 224), payloadOf]
  all_goals
    first
      | rw [exec_softReset] at h
      | rw [exec_globalBrightness] at h
      | rw [exec_comPinCtrl] at h
      | rw [exec_rowPinCtrl] at h
      | rw [exec_readDisplay] at h
      | rw [exec_systemCtrl] at h
      | rw [exec_scrollCtrl] at h
    rw [anyTimeOperation_of_not_hung hh, sendWire_eq] at h
    cases h
    refine .wire _ hh hw ?_ ?_ ?_ <;>
      simp [softResetFrames, globalBrightnessFrames, scrollCtrlFrames, systemCtrlFrames, comPinCtrlFrames,
        rowPinCtrlFrames, readDisplayFrames, Machine.frame]

/-- An operation with coordinates in range is none with a bad operand. -/
theorem good_of_inRange {i : Instr} {x y : Byte} (hr : InRange x.toInt y.toInt)
    (hi : (∃ r g b, i = .setPixel x y r g b) ∨ i = .getPixel x y ∨ i = .clearPixel x y ∨ i = .getOffset x y ∨
      i = .resolve x y) : ¬ BadPixel i ∧ ¬ BadArgument i := by
  obtain ⟨h1, h2, h3, h4⟩ := hr
  rcases hi with ⟨r, g, b, rfl⟩ | rfl | rfl | rfl | rfl <;>
    simp [BadPixel, BadArgument] <;> exact ⟨h1, h2, h3, h4⟩

/-- A host operation that sends nothing, on a ready core. -/
theorem quiet_of_exec {i : Instr} {s t : State} (hin : s.inited = true) (hh : s.hung = false)
    (hw : IsWireCommand i = false) (hn : i ≠ .init) (hs : i ≠ .showDisplay)
    (hf : ∀ cmd payload, i = .frame cmd payload → ∃ len, payload = some len ∧ 224 < len.toNat)
    (h : exec i s = .next t) : Quiet s i t := by
  cases i <;> try (cases hw; done)
  case init => exact absurd rfl hn
  case showDisplay => exact absurd rfl hs
  case setPixel x y r g b =>
    rw [exec_setPixel, hostOperation_of_ready hin hh] at h
    cases h
    by_cases hr : InRange x.toInt y.toInt
    · obtain ⟨i, -, -, he⟩ := storePixel_of_inRange hr (storedColour r g b) s
      rw [he]
      refine .ok _ _ ?_ ?_ ?_ ?_ ?_ ?_ ?_ (good_of_inRange hr (.inl ⟨r, g, b, rfl⟩)) <;> simp
    · rw [storePixel_of_not_inRange hr]
      exact .invalidPixel (.inl ⟨x, y, .inl ⟨r, g, b, rfl⟩, hr⟩)
  case clearPixel x y =>
    rw [exec_clearPixel, hostOperation_of_ready hin hh] at h
    cases h
    by_cases hr : InRange x.toInt y.toInt
    · obtain ⟨i, -, -, he⟩ := storePixel_of_inRange hr Pixel.black s
      rw [he]
      refine .ok _ _ ?_ ?_ ?_ ?_ ?_ ?_ ?_ (good_of_inRange hr (by simp)) <;> simp
    · rw [storePixel_of_not_inRange hr]
      exact .invalidPixel (.inl ⟨x, y, by simp, hr⟩)
  case getPixel x y =>
    rw [exec_getPixel, hostOperation_of_ready hin hh] at h
    cases h
    by_cases hr : InRange x.toInt y.toInt
    · obtain ⟨i, -, he, -⟩ := storePixel_of_inRange hr Pixel.black s
      rw [he]
      refine .ok _ _ ?_ ?_ ?_ ?_ ?_ ?_ ?_ (good_of_inRange hr (by simp)) <;> simp
    · have he : getOffset (coordinate x) (coordinate y) = _ := getOffset_of_not_inRange hr
      rw [he]
      exact .invalidPixel (.inl ⟨x, y, by simp, hr⟩)
  case getOffset x y =>
    rw [exec_getOffset, hostOperation_of_ready hin hh] at h
    cases h
    by_cases hr : InRange x.toInt y.toInt
    · obtain ⟨i, -, he, -⟩ := storePixel_of_inRange hr Pixel.black s
      rw [he]
      refine .ok _ _ ?_ ?_ ?_ ?_ ?_ ?_ ?_ (good_of_inRange hr (by simp)) <;> simp
    · have he : Machine.getOffset (coordinate x) (coordinate y) = _ := getOffset_of_not_inRange hr
      rw [he]
      exact .invalidPixel (.inl ⟨x, y, by simp, hr⟩)
  case resolve x y =>
    rw [exec_resolve, hostOperation_of_ready hin hh] at h
    cases h
    by_cases hr : InRange x.toInt y.toInt
    · have he : resolvePosition (coordinate x) (coordinate y) s.rot s.flipX s.flipY = .ok _ := if_pos hr
      rw [he]
      refine .ok _ _ ?_ ?_ ?_ ?_ ?_ ?_ ?_ (good_of_inRange hr (by simp)) <;> simp
    · have he : resolvePosition (coordinate x) (coordinate y) s.rot s.flipX s.flipY = .error _ := if_neg hr
      rw [he]
      exact .invalidPixel (.inl ⟨x, y, by simp, hr⟩)
  case lookup c =>
    rw [exec_lookup, hostOperation_of_ready hin hh] at h
    cases h
    by_cases hr : c.toNat < 119
    · rw [lookupWith, lookupLut, dif_pos hr]
      refine .ok _ _ ?_ ?_ ?_ ?_ ?_ ?_ ?_ ?_ <;> simp [BadPixel, BadArgument, hr]
    · rw [lookupWith, lookupLut, dif_neg hr]
      exact .invalidPixel (.inr ⟨c, rfl, by omega⟩)
  case setRotation deg =>
    rw [exec_setRotation, hostOperation_of_ready hin hh] at h
    cases h
    rw [storeRotation]
    rcases hl : legalRotation deg.toNat with e | v
    · have hb : e = .invalidArgument ∧ deg.toNat ∉ [0, 90, 180, 270] := by
        simp only [legalRotation] at hl
        split_ifs at hl
        cases hl
        exact ⟨rfl, by simp [*]⟩
      rw [hb.1]
      exact .invalidArgument (.inl ⟨deg, rfl, hb.2⟩)
    · have hg : deg.toNat ∈ [0, 90, 180, 270] := by
        simp only [legalRotation] at hl
        split_ifs at hl <;> simp [*]
      refine .ok _ _ ?_ ?_ ?_ ?_ ?_ ?_ ?_ ⟨by simp [BadPixel], ?_⟩
      case refine_8 =>
        rintro (⟨d, hd, hd'⟩ | ⟨c, len, hc, -⟩)
        · cases hd
          exact hd' hg
        · cases hc
      all_goals simp
  case frame cmd payload =>
    rw [exec_frame, hostOperation_of_ready hin hh] at h
    cases h
    obtain ⟨len, rfl, hl⟩ := hf cmd payload rfl
    rw [frameAndTransfer_of_long hl]
    exact .invalidArgument (.inr ⟨cmd, len, rfl, hl⟩)
  case render =>
    rw [exec_render, hostOperation_of_ready hin hh] at h
    cases h
    refine .ok _ _ ?_ (.inr ⟨rfl, renderWith_phys _ _⟩) ?_ ?_ ?_ ?_ ?_ ?_ <;> simp [BadPixel, BadArgument]
  all_goals
    first
      | rw [exec_setAll] at h
      | rw [exec_clear] at h
      | rw [exec_getRotation] at h
      | rw [exec_flipX] at h
      | rw [exec_flipY] at h
      | rw [exec_setBrightness] at h
      | rw [exec_getBrightness] at h
    rw [hostOperation_of_ready hin hh] at h
    cases h
    refine .ok _ _ ?_ ?_ ?_ ?_ ?_ ?_ ?_ ?_ <;> simp [BadPixel, BadArgument]

/-- Everything an instruction can do. -/
theorem effect_of_exec {i : Instr} {s t : State} (h : exec i s = .next t) : Effect s i t := by
  rcases hh : s.hung with _ | _
  swap
  · rw [exec_of_hung i hh] at h
    cases h
    exact .notTaken (.inl hh)
  rcases hw : IsWireCommand i with _ | _
  swap
  · exact effect_of_wire hh hw h
  by_cases hn : i = .init
  · subst hn
    rw [exec_init, anyTimeOperation_of_not_hung hh, initWith_eq] at h
    cases h
    exact .init hh rfl
  rcases hin : s.inited with _ | _
  · rw [exec_of_not_ready (.inl hin) hw hn] at h
    cases h
    exact .notTaken (.inr ⟨hin, hw, hn⟩)
  by_cases hs : i = .showDisplay
  · subst hs
    rw [exec_showDisplay, hostOperation_of_ready hin hh, showWith_eq _ _ rfl] at h
    exact Host.Outcome.next.inj h ▸ .shown _ hin hh rfl rfl
  by_cases hf : ∃ cmd payload, i = .frame cmd payload ∧ ∀ len, payload = some len → len.toNat ≤ 224
  · obtain ⟨cmd, payload, rfl, hl⟩ := hf
    rw [exec_frame, hostOperation_of_ready hin hh, frameAndTransfer_eq hl] at h
    cases h
    exact .frame cmd payload hin hh rfl hl
  have hf' : ∀ cmd payload, i = .frame cmd payload → ∃ len, payload = some len ∧ 224 < len.toNat := by
    rintro cmd payload rfl
    by_contra hc
    refine hf ⟨cmd, payload, rfl, fun len hl => ?_⟩
    by_contra hgt
    exact hc ⟨len, hl, by omega⟩
  exact .quiet t hin hh hw hn hs hf' (quiet_of_exec hin hh hw hn hs hf' h)

end Sys2Proof.Laws
end

