-- ==== Sys2Proof/Laws/PerInstr.lean ====
section
/-!
SUPPORT. The family RoundTrip: for each instruction, decoding the encoding of a well-formed one gives it back.
-/

namespace Sys2Proof.Laws.RoundTrip

/-- Decoding the encoding of the instruction, where it is well-formed, gives the instruction. -/
def Statement (i : Instr) : Prop := i.WellFormed = true → decode (encode i) = .ok i

theorem setPixel (x y r g b : Byte) : Statement (.setPixel x y r g b) := fun _ => decodeWord_packC x y r g b

theorem getPixel (x y : Byte) : Statement (.getPixel x y) := by
  intro _
  obtain ⟨h, hx, hy⟩ := decodeWord_packP (op := .getPixel) x y rfl
  rw [encode, decode, h, decodeOperands, hx, hy]

theorem clearPixel (x y : Byte) : Statement (.clearPixel x y) := by
  intro _
  obtain ⟨h, hx, hy⟩ := decodeWord_packP (op := .clearPixel) x y rfl
  rw [encode, decode, h, decodeOperands, hx, hy]

theorem setAll (r g b : Byte) : Statement (.setAll r g b) := fun _ => decodeWord_packA r g b

theorem clear : Statement .clear := fun _ => decodeWord_packN (op := .clear) rfl

theorem getOffset (x y : Byte) : Statement (.getOffset x y) := by
  intro _
  obtain ⟨h, hx, hy⟩ := decodeWord_packP (op := .getOffset) x y rfl
  rw [encode, decode, h, decodeOperands, hx, hy]

theorem setRotation (deg : BitVec 16) : Statement (.setRotation deg) := by
  intro _
  obtain ⟨h, hi⟩ := decodeWord_packI (op := .setRotation) deg rfl
  rw [encode, decode, h, decodeOperands, hi]

theorem getRotation : Statement .getRotation := fun _ => decodeWord_packN (op := .getRotation) rfl

theorem flipX : Statement .flipX := fun _ => decodeWord_packN (op := .flipX) rfl

theorem flipY : Statement .flipY := fun _ => decodeWord_packN (op := .flipY) rfl

theorem setBrightness (code : Brightness) : Statement (.setBrightness code) :=
  fun _ => decodeWord_packBrightness code

theorem getBrightness : Statement .getBrightness := fun _ => decodeWord_packN (op := .getBrightness) rfl

theorem resolve (x y : Byte) : Statement (.resolve x y) := by
  intro _
  obtain ⟨h, hx, hy⟩ := decodeWord_packP (op := .resolve) x y rfl
  rw [encode, decode, h, decodeOperands, hx, hy]

theorem lookup (c : BitVec 16) : Statement (.lookup c) := by
  intro _
  obtain ⟨h, hi⟩ := decodeWord_packI (op := .lookup) c rfl
  rw [encode, decode, h, decodeOperands, hi]

theorem render : Statement .render := fun _ => decodeWord_packN (op := .render) rfl

theorem frame (cmd : List Byte) (payload : Option Byte) : Statement (.frame cmd payload) :=
  fun h => decode_encode_frame h

theorem showDisplay : Statement .showDisplay := fun _ => decodeWord_packN (op := .showDisplay) rfl

theorem init : Statement .init := fun _ => decodeWord_packN (op := .init) rfl

theorem softReset : Statement .softReset := fun _ => rfl

theorem globalBrightness (d : Byte) : Statement (.globalBrightness d) := fun _ => rfl

theorem comPinCtrl (c : Byte) : Statement (.comPinCtrl c) := fun _ => rfl

theorem rowPinCtrl (a b c d : Byte) : Statement (.rowPinCtrl a b c d) := fun _ => rfl

theorem writeDisplay (a : Byte) : Statement (.writeDisplay a) := fun _ => rfl

theorem readDisplay : Statement .readDisplay := fun _ => rfl

theorem systemCtrl (s : Byte) : Statement (.systemCtrl s) := fun _ => rfl

theorem scrollCtrl (s : Byte) : Statement (.scrollCtrl s) := fun _ => rfl

end Sys2Proof.Laws.RoundTrip
end

