-- ==== Sys2Proof/Tests/Slice0.lean ====
section
/-!
SUPPORT. Tests of one operation or one step each, with the expected values of spec/95_test_vectors.md and of the rules'
own examples; the smoke test of WellFormed; and for each statement with hypotheses a state and operands that meet them.
-/

namespace Sys2Proof.Tests

open Sys2Proof.Machine Sys2Proof.Laws

/-! ### Helpers -/

/-- The stand-in table LUT_T of 95_test_vectors.md section 1: a fixture of the spec, not the hardware's table. -/
def lutT : Lut := fun c => ⟨⟨3 * c.val, by omega⟩, ⟨3 * c.val + 1, by omega⟩, ⟨3 * c.val + 2, by omega⟩⟩

/-- Parameters with LUT_T and the K2 values of 93_implementation_defined.md, for tests alone. -/
def paramsT : Params := ⟨lutT, 0x00#8, 0x01#8, 0x00#8, 0x00#8, 0xFF#8, 0xFF#8, 0xFF#8, 0xFF#8, 0xFF#8, 0x03#8, 0#6⟩

/-- A ready core after reset, with n answers success to come. -/
def ready (n : Nat) : State := { State.reset with inited := true, bri := 0#6, answers := List.replicate n .success }

/-- The next state, or the old one where there is none. -/
def run (i : Instr) (s : State) : State :=
  match exec i s with
  | .next t => t
  | .fault _ => s
  | .refused _ => s

/-- The pixels of 95_test_vectors.md section 5: (0,0), (10,5) and (16,6). -/
def threePixels : State :=
  run (.setPixel 16#8 6#8 252#8 3#8 64#8) (run (.setPixel 10#8 5#8 40#8 80#8 120#8)
    (run (.setPixel 0#8 0#8 255#8 128#8 4#8) (ready 0)))

/-- PHYS after the first RENDER of section 5. -/
def physT : Memory :=
  [(0, 63#8), (1, 32#8), (2, 1#8), (225, 10#8), (226, 20#8), (227, 30#8), (354, 63#8), (356, 16#8)]

/-! ### WellFormed -/

theorem test_frame_without_command_is_ill_formed : (Instr.frame [] none).WellFormed = false := by decide
theorem test_frame_of_six_bytes_is_ill_formed :
    (Instr.frame [0x42#8, 1#8, 2#8, 3#8, 4#8, 5#8] none).WellFormed = false := by decide
theorem test_frame_of_five_bytes_is_well_formed :
    (Instr.frame [0x42#8, 1#8, 2#8, 3#8, 4#8] none).WellFormed = true := by decide

/-! ### Words written out from the formats (R82 to R88) and the tables (R86, R96) -/

theorem test_words_of_the_frame_buffer :
    decodeWord 0x010000FF80040000#64 = .ok (.setPixel 0#8 0#8 255#8 128#8 4#8) ∧
    decodeWord 0x0210060000000000#64 = .ok (.getPixel 16#8 6#8) ∧
    decodeWord 0x0310060000000000#64 = .ok (.clearPixel 16#8 6#8) ∧
    decodeWord 0x0400000A141E0000#64 = .ok (.setAll 10#8 20#8 30#8) ∧
    decodeWord 0x0500000000000000#64 = .ok .clear ∧
    decodeWord 0x0608030000000000#64 = .ok (.getOffset 8#8 3#8) ∧
    decodeWord 0x1800000000000000#64 = .ok .render := by decide

theorem test_words_of_the_orientation_transform :
    decodeWord 0x080000000000005A#64 = .ok (.setRotation 90#16) ∧
    decodeWord 0x0900000000000000#64 = .ok .getRotation ∧
    decodeWord 0x0A00000000000000#64 = .ok .flipX ∧
    decodeWord 0x0B00000000000000#64 = .ok .flipY ∧
    decodeWord 0x10FF030000000000#64 = .ok (.resolve 0xFF#8 3#8) := by decide

theorem test_word_of_the_lookup : decodeWord 0x110000000000004A#64 = .ok (.lookup 74#16) := by decide

theorem test_words_of_the_sequences :
    decodeWord 0x0C0000000000003F#64 = .ok (.setBrightness 63#6) ∧
    decodeWord 0x0D00000000000000#64 = .ok .getBrightness ∧
    decodeWord 0x1A00000000000000#64 = .ok .showDisplay ∧
    decodeWord 0x1B00000000000000#64 = .ok .init := by decide

theorem test_words_of_frame :
    decodeWord 0x1940003720000000#64 = .ok (.frame [0x37#8, 0x20#8] none) ∧
    decodeWord 0x19A00042FFFFFFFF#64 = .ok (.frame [0x42#8, 0xFF#8, 0xFF#8, 0xFF#8, 0xFF#8] none) ∧
    decodeWord 0x1950038000000000#64 = .ok (.frame [0x80#8, 0x00#8] (some 3#8)) ∧
    decodeWord 0x1950008000000000#64 = .ok (.frame [0x80#8, 0x00#8] (some 0#8)) ∧
    decodeWord 0x1950E18000000000#64 = .ok (.frame [0x80#8, 0x00#8] (some 225#8)) := by decide

theorem test_wire_commands :
    decodeWire [0xCC#8] = .ok .softReset ∧
    decodeWire [0x37#8, 0x20#8] = .ok (.globalBrightness 0x20#8) ∧
    decodeWire [0x41#8, 0xFF#8] = .ok (.comPinCtrl 0xFF#8) ∧
    decodeWire [0x42#8, 1#8, 2#8, 3#8, 4#8] = .ok (.rowPinCtrl 1#8 2#8 3#8 4#8) ∧
    decodeWire [0x80#8, 0x05#8] = .ok (.writeDisplay 0x05#8) ∧
    decodeWire [0x81#8] = .ok .readDisplay ∧
    decodeWire [0x35#8, 0x03#8] = .ok (.systemCtrl 0x03#8) ∧
    decodeWire [0x20#8, 0x00#8] = .ok (.scrollCtrl 0x00#8) := by decide

/-- The illegal words of 95_test_vectors.md sections 5 to 7, each refused by the name of its reason. -/
theorem test_illegal_words :
    decodeWord 0x0500000000000001#64 = .error .reservedBits ∧
    decodeWord 0x0C00000000000040#64 = .error .reservedBits ∧
    decodeWord 0x1900000000000000#64 = .error .headerLength ∧
    decodeWord 0x19C000CC00000000#64 = .error .headerLength ∧
    decodeWord 0x192000CC01000000#64 = .error .strayHeaderByte ∧
    decodeWord 0x192005CC00000000#64 = .error .lengthWithoutPayload ∧
    decodeWord 0x0700000000000000#64 = .error .unknownOpcode := by decide

theorem test_bytes_that_are_no_wire_command :
    decodeWire [] = .error .emptyWireCommand ∧
    decodeWire [0x00#8] = .error .unknownWireOpcode ∧
    decodeWire [0x37#8] = .error .wireDataCount := by decide

/-- The opcode table's numbering: a host word has 64 bits, a wire command's first byte is the highest. -/
theorem test_table_words :
    decodeTableWord 64 0x0A00000000000000 = some .flipX ∧
    decodeTableWord 8 0xCC = some .softReset ∧
    decodeTableWord 16 0x3720 = some (.globalBrightness 0x20#8) ∧
    decodeTableWord 40 0x42FFFEFDFC = some (.rowPinCtrl 0xFF#8 0xFE#8 0xFD#8 0xFC#8) := by decide

/-! ### The logical grid (section 5, S2, S6, S7) -/

theorem test_setPixel :
    (run (.setPixel 0#8 0#8 255#8 128#8 4#8) (ready 0)).pixel 0 = ⟨63#6, 32#6, 1#6⟩ ∧
    (run (.setPixel 16#8 6#8 252#8 3#8 64#8) (ready 0)).pixel 118 = ⟨63#6, 0#6, 16#6⟩ := by decide

theorem test_setPixel_out_of_range :
    (run (.setPixel 17#8 0#8 0#8 0#8 0#8) (ready 0)).responses = [0x0100000000#40] ∧
    (run (.setPixel 0x80#8 0#8 0#8 0#8 0#8) (ready 0)).responses = [0x0100000000#40] := by decide

theorem test_getPixel :
    (run (.getPixel 16#8 6#8) threePixels).responses.getLast? = some 0x00003F0010#40 ∧
    (run (.getPixel 0xFF#8 3#8) threePixels).responses.getLast? = some 0x0100000000#40 := by decide

theorem test_clearPixel :
    (run (.clearPixel 16#8 6#8) threePixels).pixel 118 = ⟨0#6, 0#6, 0#6⟩ ∧
    (run (.clearPixel 16#8 6#8) threePixels).pixel 75 = ⟨10#6, 20#6, 30#6⟩ := by decide

theorem test_setAll :
    (run (.setAll 10#8 20#8 30#8) (ready 0)).pixel 57 = ⟨2#6, 5#6, 7#6⟩ ∧
    (run (.getPixel 8#8 3#8) (run (.setAll 10#8 20#8 30#8) (ready 0))).responses.getLast? = some 0x0000020507#40 := by
  decide

/-- CLEAR leaves PHYS alone (R166). -/
theorem test_clear :
    (run .clear { threePixels with phys := physT }).pixel 75 = ⟨0#6, 0#6, 0#6⟩ ∧
    (run .clear { threePixels with phys := physT }).phys = physT := by decide

theorem test_getOffset :
    (run (.getOffset 8#8 3#8) (ready 0)).responses = [0x000000003B#40] ∧
    (run (.getOffset 0#8 7#8) (ready 0)).responses = [0x0100000000#40] := by decide

/-! ### Orientation (section 3, S9) -/

theorem test_crop : crop (-9) 7 = 0 ∧ crop 7 7 = 6 ∧ crop 17 17 = 16 ∧ crop 11 17 = 11 := by decide

theorem test_setRotation :
    (run (.setRotation 270#16) (ready 0)).rot = .r270 ∧
    (run (.setRotation 360#16) { ready 0 with rot := .r90 }).rot = .r90 ∧
    (run (.setRotation 360#16) { ready 0 with rot := .r90 }).responses = [0x0200000000#40] := by decide

theorem test_getRotation : (run .getRotation { ready 0 with rot := .r270 }).responses = [0x000000010E#40] := by decide

theorem test_flipX : (run .flipX (ready 0)).flipX = true ∧ (run .flipX { ready 0 with flipX := true }).flipX = false := by
  decide

theorem test_flipY : (run .flipY (ready 0)).flipY = true ∧ (run .flipY (ready 0)).flipX = false := by decide

theorem test_resolve :
    (run (.resolve 0#8 0#8) { ready 0 with rot := .r90 }).responses = [0x0000000006#40] ∧
    (run (.resolve 16#8 6#8) { ready 0 with rot := .r270, flipX := true }).responses = [0x0000000029#40] := by decide

/-- Lines of the table of all sixteen orientations: (16,0), (0,6), (1,0), (7,2), (5,6). -/
theorem test_probe_points :
    ([(16, 0), (0, 6), (1, 0), (7, 2), (5, 6)].map fun p : Int × Int => (canonicalIndex .r90 false true p.1 p.2).val) =
      [6, 42, 0, 20, 46] ∧
    ([(16, 0), (0, 6), (1, 0), (7, 2), (5, 6)].map fun p : Int × Int => (canonicalIndex .r180 true false p.1 p.2).val) =
      [118, 0, 13, 53, 35] ∧
    ([(16, 0), (0, 6), (1, 0), (7, 2), (5, 6)].map fun p : Int × Int => (canonicalIndex .r270 true true p.1 p.2).val) =
      [0, 41, 5, 7, 36] := by decide

/-! ### The LUT (section 4) -/

theorem test_lookup :
    (lookupWith lutT 74#16 (ready 0)).responses = [0x000379BEE0#40] ∧
    (lookupWith lutT 118#16 (ready 0)).responses = [0x00058AC764#40] := by decide

theorem test_lookup_out_of_range : (lookupWith lutT 119#16 (ready 0)).responses = [0x0100000000#40] := by decide

/-! ### PHYS and RENDER (section 5) -/

theorem test_memory_form :
    Memory.wf physT ∧ ¬ Memory.wf [(2, 1#8), (1, 1#8)] ∧ ¬ Memory.wf [(3, 0#8)] ∧ ¬ Memory.wf [(448, 1#8)] := by decide

theorem test_memory_write :
    Memory.write [(1, 5#8), (9, 7#8)] 4 6#8 = [(1, 5#8), (4, 6#8), (9, 7#8)] ∧
    Memory.write [(1, 5#8), (9, 7#8)] 9 0#8 = [(1, 5#8)] := by decide

theorem test_render : (renderWith lutT threePixels).phys = physT := by decide +kernel

/-- Under rotation 90 the later storage index wins: here the zero of pixel (16,3) over the 10 of pixel (7,3). -/
theorem test_render_collision :
    (renderWith lutT (run (.setPixel 7#8 3#8 40#8 0#8 0#8) { ready 0 with rot := .r90 })).phys = [] ∧
    (renderWith lutT (run (.setPixel 16#8 3#8 40#8 0#8 0#8) { ready 0 with rot := .r90 })).phys = [(63, 10#8)] := by
  decide +kernel

/-! ### The framer (section 6) -/

theorem test_frame_with_payload :
    (run (.frame [0x80#8, 0x00#8] (some 3#8)) { ready 2 with phys := physT }).wire =
      [⟨.link0, [0x80#8, 0x00#8, 0x3F#8, 0x20#8, 0x01#8], .success⟩,
       ⟨.link1, [0x80#8, 0x00#8, 0x00#8, 0x0A#8, 0x14#8], .success⟩] := by decide +kernel

theorem test_frame_refused_on_link_0 :
    (run (.frame [0xCC#8] none) { ready 0 with answers := [.failure] }).wire = [⟨.link0, [0xCC#8], .failure⟩] ∧
    (run (.frame [0xCC#8] none) { ready 0 with answers := [.failure] }).responses = [0x0300000000#40] ∧
    (run (.frame [0x80#8, 0x00#8] (some 225#8)) (ready 2)).responses = [0x0200000000#40] := by decide

theorem test_softReset :
    (run .softReset (ready 2)).wire = [⟨.link0, [0xCC#8], .success⟩, ⟨.link1, [0xCC#8], .success⟩] := by decide

theorem test_globalBrightness :
    (run (.globalBrightness 0x20#8) (ready 2)).wire =
      [⟨.link0, [0x37#8, 0x20#8], .success⟩, ⟨.link1, [0x37#8, 0x20#8], .success⟩] := by decide

theorem test_comPinCtrl :
    (run (.comPinCtrl 0xFF#8) (ready 2)).wire =
      [⟨.link0, [0x41#8, 0xFF#8], .success⟩, ⟨.link1, [0x41#8, 0xFF#8], .success⟩] := by decide

theorem test_rowPinCtrl :
    ((run (.rowPinCtrl 1#8 2#8 3#8 4#8) (ready 2)).wire.map Emission.bytes) =
      [[0x42#8, 1#8, 2#8, 3#8, 4#8], [0x42#8, 1#8, 2#8, 3#8, 4#8]] := by decide

theorem test_writeDisplay :
    ((run (.writeDisplay 0x05#8) { ready 2 with phys := physT }).wire.map fun e => (e.bytes.take 5, e.bytes.length)) =
      [([0x80#8, 0x05#8, 0x3F#8, 0x20#8, 0x01#8], 226), ([0x80#8, 0x05#8, 0x00#8, 0x0A#8, 0x14#8], 226)] := by
  decide +kernel

theorem test_readDisplay :
    ((run .readDisplay (ready 2)).wire.map Emission.bytes) = [[0x81#8], [0x81#8]] ∧
    (run .readDisplay (ready 2)).responses = [] := by decide

theorem test_systemCtrl :
    ((run (.systemCtrl 0x03#8) (ready 2)).wire.map Emission.bytes) = [[0x35#8, 0x03#8], [0x35#8, 0x03#8]] := by decide

theorem test_scrollCtrl :
    ((run (.scrollCtrl 0x00#8) (ready 2)).wire.map Emission.bytes) = [[0x20#8, 0x00#8], [0x20#8, 0x00#8]] := by decide

/-! ### Brightness, SHOW and INIT (section 7) -/

theorem test_setBrightness :
    (run (.setBrightness 63#6) (ready 0)).bri = 63#6 ∧ (run (.setBrightness 63#6) (ready 0)).wire = [] := by decide

theorem test_getBrightness : (run .getBrightness { ready 0 with bri := 32#6 }).responses = [0x0000000020#40] := by decide

/-- SHOW where the third frame, the brightness on link 0, is refused: PHYS holds the new render. -/
theorem test_show_refused :
    ((showWith paramsT { threePixels with bri := 32#6, answers := [.success, .success, .failure] }).wire.map fun e =>
      (e.link, e.bytes.take 5, e.bytes.length)) =
      [(.link0, [0x80#8, 0x00#8, 0x3F#8, 0x20#8, 0x01#8], 226), (.link1, [0x80#8, 0x00#8, 0x00#8, 0x0A#8, 0x14#8], 226),
       (.link0, [0x37#8, 0x20#8], 2)] ∧
    (showWith paramsT { threePixels with answers := [.success, .success, .failure] }).phys = physT ∧
    (showWith paramsT { threePixels with answers := [.success, .success, .failure] }).responses.getLast? =
      some 0x0300000000#40 := by decide +kernel

theorem test_init :
    ((initWith paramsT { ready 16 with inited := false }).wire.map fun e => e.bytes.length) =
      [1, 1, 2, 2, 2, 2, 2, 2, 226, 226, 2, 2, 5, 5, 2, 2] ∧
    (initWith paramsT { ready 16 with inited := false }).inited = true := by decide +kernel

/-- INIT where step 5 is refused on link 1: nine frames are accepted, the tenth is not, and the core is in UNINIT. -/
theorem test_init_refused :
    (initWith paramsT { ready 9 with answers := List.replicate 9 .success ++ [.failure] }).wire.length = 10 ∧
    (initWith paramsT { ready 9 with answers := List.replicate 9 .success ++ [.failure] }).inited = false ∧
    (initWith paramsT { ready 9 with answers := List.replicate 9 .success ++ [.failure] }).responses =
      [0x0300000000#40] := by decide +kernel

/-! ### Steps -/

/-- A word placed with withFetchWord is the instruction the next step after reset runs. -/
theorem test_step_runs_the_placed_word :
    step (State.reset.withFetchWord 64 0x0A00000000000000) = exec .flipX ((State.reset.withFetchWord 64
      0x0A00000000000000).setPending []) := by
  refine step_of_ok ?_ ?_ rfl ?_ ?_ <;> decide

/-- Before INIT, GET_ROTATION gets no response and changes nothing (section 7). -/
theorem test_uninit_takes_nothing :
    step { State.reset with pending := [.word 0x0900000000000000#64] } =
      .next { State.reset with pending := [.word 0x0900000000000000#64] } := by
  refine step_of_not_accepted ?_ ?_ rfl ?_ <;> decide

/-- The next state of a step, or the old one where there is none. -/
def stepped (s : State) : State :=
  match step s with
  | .next t => t
  | .fault _ => s
  | .refused _ => s

/-- FRAME [0xCC] cut by reset between its two frames (R271): link 0's frame stays, link 1's is never presented, no response
word, UNINIT. Cut after both frames and before the response: no response word. With a later reset: the response word. -/
theorem test_reset_during_frame :
    (stepped { ready 2 with pending := [.word 0x192000CC00000000#64], resetLine := .during 1 }).wire =
      [⟨.link0, [0xCC#8], .success⟩] ∧
    (stepped { ready 2 with pending := [.word 0x192000CC00000000#64], resetLine := .during 1 }).answers = [.success] ∧
    (stepped { ready 2 with pending := [.word 0x192000CC00000000#64], resetLine := .during 1 }).responses = [] ∧
    (stepped { ready 2 with pending := [.word 0x192000CC00000000#64], resetLine := .during 1 }).inited = false ∧
    (stepped { ready 2 with pending := [.word 0x192000CC00000000#64], resetLine := .during 2 }).responses = [] ∧
    (stepped { ready 2 with pending := [.word 0x192000CC00000000#64], resetLine := .during 3 }).responses =
      [0x0000000000#40] := by decide

/-- FLIP_X abandoned before its response: no response word, and FLIPX is 0 as after every reset. -/
theorem test_reset_during_flipX :
    (stepped { ready 0 with pending := [.word 0x0A00000000000000#64], resetLine := .during 0 }).responses = [] ∧
    (stepped { ready 0 with pending := [.word 0x0A00000000000000#64], resetLine := .during 0 }).flipX = false ∧
    (stepped { ready 0 with pending := [.word 0x0A00000000000000#64], resetLine := .during 0 }).pending = [] := by decide

/-- Bytes that are no wire command are sent as they are (R98). -/
theorem test_unknown_bytes_are_sent :
    (stepped { ready 2 with pending := [.wire [0x99#8, 0x01#8]] }).wire =
      [⟨.link0, [0x99#8, 0x01#8], .success⟩, ⟨.link1, [0x99#8, 0x01#8], .success⟩] ∧
    (stepped { ready 2 with pending := [.wire [0x99#8, 0x01#8]] }).responses = [] := by decide

/-! ### Witnesses: states and operands that meet the hypotheses of the statements -/

/-- A ready core. -/
theorem ready_is_ready (n : Nat) : (ready n).inited = true ∧ (ready n).hung = false := ⟨rfl, rfl⟩

/-- The hypotheses of the statements about one host operation with coordinates: a ready core, and coordinates at the
corners of the range and just outside. -/
theorem witness_SetPixelStoresTheShiftedColour :
    (ready 0).inited = true ∧ (ready 0).hung = false ∧
    (0 ≤ (16#8 : Byte).toInt ∧ (16#8 : Byte).toInt < 17 ∧ 0 ≤ (6#8 : Byte).toInt ∧ (6#8 : Byte).toInt < 7) ∧
    ¬ (0 ≤ (17#8 : Byte).toInt ∧ (17#8 : Byte).toInt < 17 ∧ 0 ≤ (6#8 : Byte).toInt ∧ (6#8 : Byte).toInt < 7) := by decide

theorem witness_GetPixelReturnsTheStoredColour :
    threePixels.inited = true ∧ threePixels.hung = false ∧
    (0 ≤ (16#8 : Byte).toInt ∧ (16#8 : Byte).toInt < 17 ∧ 0 ≤ (6#8 : Byte).toInt ∧ (6#8 : Byte).toInt < 7) ∧
    (((118 : PixelIndex).val : Int) = (16#8 : Byte).toInt * 7 + (6#8 : Byte).toInt) ∧
    ¬ (0 ≤ (0#8 : Byte).toInt ∧ (0#8 : Byte).toInt < 17 ∧ 0 ≤ (7#8 : Byte).toInt ∧ (7#8 : Byte).toInt < 7) := by decide

theorem witness_SetPixelThenGetPixelRoundTrip :
    (ready 0).inited = true ∧ (ready 0).hung = false ∧
    (0 ≤ (16#8 : Byte).toInt ∧ (16#8 : Byte).toInt < 17 ∧ 0 ≤ (6#8 : Byte).toInt ∧ (6#8 : Byte).toInt < 7) ∧
    ((16#8, 6#8) : Byte × Byte) ≠ (16#8, 5#8) := by decide

theorem witness_ClearPixelStoresBlack :
    threePixels.inited = true ∧ threePixels.hung = false ∧
    (0 ≤ (0#8 : Byte).toInt ∧ (0#8 : Byte).toInt < 17 ∧ 0 ≤ (6#8 : Byte).toInt ∧ (6#8 : Byte).toInt < 7) ∧
    ¬ (0 ≤ (0xFF#8 : Byte).toInt ∧ (0xFF#8 : Byte).toInt < 17 ∧ 0 ≤ (6#8 : Byte).toInt ∧ (6#8 : Byte).toInt < 7) := by
  decide

theorem witness_SetAllFillsTheGrid : (ready 0).inited = true ∧ (ready 0).hung = false := ready_is_ready 0

theorem witness_ClearBlackensTheGrid : threePixels.inited = true ∧ threePixels.hung = false := by decide

theorem witness_GetOffsetReturnsTheStorageIndex :
    (ready 0).inited = true ∧ (ready 0).hung = false ∧
    (0 ≤ (16#8 : Byte).toInt ∧ (16#8 : Byte).toInt < 17 ∧ 0 ≤ (0#8 : Byte).toInt ∧ (0#8 : Byte).toInt < 7) ∧
    ¬ (0 ≤ (3#8 : Byte).toInt ∧ (3#8 : Byte).toInt < 17 ∧ 0 ≤ (0xFF#8 : Byte).toInt ∧ (0xFF#8 : Byte).toInt < 7) := by
  decide

theorem witness_SetAllIsSetPixelEverywhere : (ready 0).inited = true ∧ (ready 0).hung = false := ready_is_ready 0

theorem witness_ResolveReturnsTheCanonicalIndex :
    (ready 0).inited = true ∧ (ready 0).hung = false ∧
    (0 ≤ (0#8 : Byte).toInt ∧ (0#8 : Byte).toInt < 17 ∧ 0 ≤ (0#8 : Byte).toInt ∧ (0#8 : Byte).toInt < 7) ∧
    ¬ (0 ≤ (0x7F#8 : Byte).toInt ∧ (0x7F#8 : Byte).toInt < 17 ∧ 0 ≤ (0#8 : Byte).toInt ∧ (0#8 : Byte).toInt < 7) := by
  decide

/-- The third clause of UprightRotationsAreBijective: both rotations, the last index. -/
theorem witness_UprightRotationsAreBijective :
    ∀ rot ∈ [Rotation.r0, .r180], (rot = .r0 ∨ rot = .r180) ∧
      ∃ x y, resolvePosition x y rot true false = .ok 118 := by
  intro rot h
  simp only [List.mem_cons, List.not_mem_nil, or_false] at h
  rcases h with rfl | rfl
  · exact ⟨.inl rfl, 0, 6, by decide⟩
  · exact ⟨.inr rfl, 16, 0, by decide⟩

/-- Pairs that share an index and pairs that do not, at the edges of the colliding ranges. -/
theorem witness_LossyRotationsCollideAsStated :
    resolvePosition 0 3 .r90 false false = .ok 27 ∧ resolvePosition 1 3 .r90 false false = .ok 27 ∧
    resolvePosition 2 3 .r90 false false = .ok 26 ∧
    resolvePosition 7 3 .r90 false false = .ok 21 ∧ resolvePosition 16 3 .r90 false false = .ok 21 ∧
    resolvePosition 6 3 .r90 false false = .ok 22 ∧
    resolvePosition 5 0 .r270 false false = .ok 117 ∧ resolvePosition 5 1 .r270 false false = .ok 117 ∧
    resolvePosition 6 2 .r270 false false = .ok 111 ∧ resolvePosition 16 2 .r270 false false = .ok 111 := by decide

theorem witness_SetRotationValidatesItsOperand :
    (ready 0).inited = true ∧ (ready 0).hung = false ∧ (0#16 : BitVec 16).toNat = 0 ∧ (90#16 : BitVec 16).toNat = 90 ∧
    (180#16 : BitVec 16).toNat = 180 ∧ (270#16 : BitVec 16).toNat = 270 ∧
    (360#16 : BitVec 16).toNat ≠ 0 ∧ (360#16 : BitVec 16).toNat ≠ 90 ∧ (360#16 : BitVec 16).toNat ≠ 180 ∧
    (360#16 : BitVec 16).toNat ≠ 270 := by decide

theorem witness_GetRotationReturnsDegrees :
    ∀ v ∈ [Rotation.r0, .r90, .r180, .r270],
      { ready 0 with rot := v }.inited = true ∧ { ready 0 with rot := v }.hung = false ∧
        { ready 0 with rot := v }.rot = v := by decide

theorem witness_FlipsInvertTheirFlag :
    { ready 0 with flipX := true }.inited = true ∧ { ready 0 with flipX := true }.hung = false := by decide

theorem witness_SetBrightnessStoresTheCode :
    (ready 0).inited = true ∧ (ready 0).hung = false ∧
    64 ≤ (64#16 : BitVec 16).toNat := by decide

theorem witness_GetBrightnessReturnsTheCode :
    { ready 0 with bri := 63#6 }.inited = true ∧ { ready 0 with bri := 63#6 }.hung = false := by decide

theorem witness_LookupReturnsTheOffsets :
    (ready 0).inited = true ∧ (ready 0).hung = false ∧ (0 : PixelIndex).val = (0#16 : BitVec 16).toNat ∧
    (118 : PixelIndex).val = (118#16 : BitVec 16).toNat ∧ 119 ≤ (119#16 : BitVec 16).toNat := by
  decide

/-! #### Encoding and steps -/

theorem witness_DecodeOfEncodeIsTheInstruction :
    ∀ i ∈ [Instr.frame [0xCC#8] none, .frame [0x42#8, 1#8, 2#8, 3#8, 4#8] (some 255#8), .clear, .scrollCtrl 0#8],
      i.WellFormed = true := by decide

theorem witness_EncodeOfDecodeIsTheRequest :
    decode (.word 0x1950E08000000000#64) = .ok (.frame [0x80#8, 0x00#8] (some 224#8)) ∧
    decode (.wire [0x81#8]) = .ok .readDisplay := by decide

/-- A must-be-zero bit that is 1, and an operation code that is not in the table. -/
theorem two_illegal_words : ¬ LegalWord 0x0500000000000001#64 ∧ ¬ LegalWord 0x0000000000000000#64 := by
  refine ⟨fun h => ?_, fun h => h⟩
  have h' : (0x0500000000000001#64 : Hcw).toNat % 2 ^ 56 = 0 := h
  exact absurd h' (by decide)

/-- The two sides of OnlyLegalWordsAreDecoded: a word that is legal and one that is not. -/
theorem witness_OnlyLegalWordsAreDecoded :
    LegalWord 0x1950E08000000000#64 ∧ ¬ LegalWord 0x0500000000000001#64 := by
  refine ⟨⟨by decide, by decide, by decide, ?_, by decide⟩, two_illegal_words.1⟩
  intro j h1 h2
  interval_cases j <;> simp at h1 ⊢

theorem witness_IllegalWordsAreAnsweredInvalidArgument :
    ({ ready 0 with pending := [.word 0x0500000000000001#64, .word 0#64] }.inited = true ∧
      { ready 0 with pending := [.word 0x0500000000000001#64, .word 0#64] }.hung = false ∧
      { ready 0 with pending := [.word 0x0500000000000001#64, .word 0#64] }.resetLine = .idle ∧
      { ready 0 with pending := [.word 0x0500000000000001#64, .word 0#64] }.pending =
        .word 0x0500000000000001#64 :: [.word 0#64] ∧ ¬ LegalWord 0x0500000000000001#64 ∧ ¬ LegalWord 0#64) ∧
    (1 ≤ [0x80#8, 0x00#8].length ∧ [0x80#8, 0x00#8].length ≤ 5 ∧ 224 < (225#8 : Byte).toNat ∧
      224 < (255#8 : Byte).toNat) := by
  refine ⟨⟨rfl, rfl, rfl, rfl, two_illegal_words.1, two_illegal_words.2⟩, by decide⟩

/-- The three ways a request is accepted: in READY, INIT in UNINIT, and a wire command. -/
theorem witness_StepRunsTheDecodedInstruction :
    (∃ s : State, s.resetLine = .idle ∧ s.hung = false ∧ s.pending = [.word 0x0A00000000000000#64] ∧ s.inited = true ∧
      decode (.word 0x0A00000000000000#64) = .ok .flipX) ∧
    (∃ s : State, s.resetLine = .idle ∧ s.hung = false ∧ s.pending = [.word 0x1B00000000000000#64] ∧ s.inited = false ∧
      decode (.word 0x1B00000000000000#64) = .ok .init) ∧
    ∃ s : State, s.resetLine = .idle ∧ s.hung = false ∧ s.pending = [.wire [0xCC#8]] ∧ s.inited = false ∧
      decode (.wire [0xCC#8]) = .ok .softReset ∧ IsWireCommand .softReset = true := by
  refine ⟨⟨{ ready 0 with pending := [.word 0x0A00000000000000#64] }, ?_⟩,
    ⟨{ State.reset with pending := [.word 0x1B00000000000000#64] }, ?_⟩,
    ⟨{ State.reset with pending := [.wire [0xCC#8]] }, ?_⟩⟩ <;> decide

/-- A word held in UNINIT, the INIT word, and a host operation other than INIT. -/
theorem witness_UninitTakesOnlyInit :
    (∃ s : State, s.inited = false ∧ s.hung = false ∧ s.resetLine = .idle ∧
      s.pending = [.word 0x0900000000000000#64] ∧ (0x0900000000000000#64 : Hcw).toNat / 2 ^ 56 ≠ 0x1B) ∧
    (∃ s : State, s.inited = false ∧ s.hung = false ∧ s.resetLine = .idle ∧ s.pending = [.word 0x1B00000000000000#64]) ∧
    State.reset.inited = false ∧ IsWireCommand .getRotation = false ∧ Instr.getRotation ≠ .init := by
  refine ⟨⟨{ State.reset with pending := [.word 0x0900000000000000#64] }, ?_⟩,
    ⟨{ State.reset with pending := [.word 0x1B00000000000000#64] }, ?_⟩, ?_⟩ <;> decide

/-- INIT's operation code with a must-be-zero bit set, held in UNINIT; reset asserted, and reset of a hung core; nothing
issued. -/
theorem witness_HeldRequestsStayWithTheHost :
    (∃ s : State, s.inited = false ∧ s.hung = false ∧ s.resetLine = .idle ∧
      s.pending = [.word 0x1B00000000000001#64] ∧ (0x1B00000000000001#64 : Hcw).toNat / 2 ^ 56 = 0x1B ∧
      (0x1B00000000000001#64 : Hcw).toNat % 2 ^ 56 ≠ 0) ∧
    (∃ s : State, s.resetLine = .asserted ∧ s.pending ≠ [] ∧ s.responses ≠ []) ∧
    (∃ s : State, s.hung = true ∧ s.resetLine = .during 1 ∧ s.pending ≠ []) ∧
    (ready 0).resetLine = .idle ∧ (ready 0).pending = [] := by
  refine ⟨⟨{ State.reset with pending := [.word 0x1B00000000000001#64] }, ?_⟩,
    ⟨{ ready 0 with resetLine := .asserted, pending := [.wire [0xCC#8]], responses := [0x0200000000#40] }, ?_⟩,
    ⟨{ ready 0 with hung := true, resetLine := .during 1, pending := [.wire [0xCC#8]] }, ?_⟩, ?_⟩ <;> decide

/-- An operation that hangs, and a hung core without and with reset. -/
theorem witness_HungCoreWaitsForReset :
    (∃ t, exec (.frame [0xCC#8] none) { ready 0 with answers := [.success, .never] } = .next t ∧ t.hung = true) ∧
    ({ ready 0 with hung := true }.hung = true ∧ { ready 0 with hung := true }.resetLine = .idle) ∧
    { ready 0 with hung := true, resetLine := .asserted }.resetLine ≠ .idle := ⟨⟨_, rfl, rfl⟩, by decide⟩

/-- Reset of a hung core, and reset inside an operation, after link 0's frame. -/
theorem witness_ResetInterfaceRestoresTheCore :
    (∃ s : State, s.resetLine = .asserted ∧ s.hung = true ∧ s.rot ≠ .r0) ∧
    { ready 2 with pending := [.word 0x192000CC00000000#64], resetLine := .during 1 }.resetLine = .during 1 ∧
    ∃ u, step { ready 2 with pending := [.word 0x192000CC00000000#64], resetLine := .idle } = .next u ∧
      u.wire.length = 2 := by
  refine ⟨⟨{ ready 0 with resetLine := .asserted, hung := true, rot := .r90 }, ?_⟩, rfl, _, rfl, ?_⟩ <;> decide

/-- A state with a written PHYS, a response and a frame that meets the invariant and steps. -/
theorem witness_StepKeepsTheInvariant :
    ({ ready 0 with
        phys := [(447, 63#8)], responses := [0x0300000000#40], wire := [⟨.link0, [0xCC#8], .failure⟩],
        pending := [.word 0x0500000000000000#64] } : State).Inv ∧
    ∃ t, step { ready 0 with
        phys := [(447, 63#8)], responses := [0x0300000000#40], wire := [⟨.link0, [0xCC#8], .failure⟩],
        pending := [.word 0x0500000000000000#64] } = .next t := by
  refine ⟨⟨by decide, by decide +kernel, ?_, by decide, by simp, by decide⟩, ⟨_, rfl⟩⟩
  intro w h
  simp only [List.mem_cons, List.not_mem_nil, or_false] at h
  subst h
  exact ⟨by decide, by decide⟩

/-! #### PHYS and RENDER -/

theorem witness_PhysReadsBackWhatWasWritten : Memory.wf physT ∧ Memory.wf [(0, 1#8), (447, 63#8)] := by decide

theorem witness_PhysCanonicalFormIsUnique :
    Memory.wf (Memory.write [(447, 63#8)] 3 5#8) ∧ Memory.wf [(3, 5#8), (447, 63#8)] ∧
    ∀ a, Memory.read (Memory.write [(447, 63#8)] 3 5#8) a = Memory.read [(3, 5#8), (447, 63#8)] a := by decide +kernel

/-- LUT_T has LUT_INJECTIVE (95_test_vectors.md section 1). -/
theorem lutT_injective : LutInjective lutT := by
  unfold LutInjective
  rw [List.nodup_flatMap]
  refine ⟨fun c _ => by simp [lutT], ?_⟩
  refine (List.nodup_finRange 119).imp fun h => ?_
  rename_i c d
  have hne : c.val ≠ d.val := fun e => h (Fin.ext e)
  simp only [Function.onFun, lutT, List.disjoint_left, List.mem_cons, List.not_mem_nil, or_false, Fin.ext_iff]
  intro x h1 h2
  rcases x with ⟨x, hx⟩
  simp only at h1 h2
  omega

theorem witness_RenderRebuildsThePhysicalBuffer : threePixels.inited = true ∧ threePixels.hung = false := by decide

/-- A pixel that is the last of its lanes: the last one of all, and one in the middle. -/
theorem witness_RenderKeepsTheLargestStorageIndex :
    LutInjective lutT ∧
    (∀ j : PixelIndex, 118 < j → laneIndex .r90 false false j ≠ laneIndex .r90 false false 118) ∧
    ∀ j : PixelIndex, 7 < j → laneIndex .r90 false false j ≠ laneIndex .r90 false false 7 :=
  ⟨lutT_injective, by decide, by decide⟩

theorem witness_UprightRenderIgnoresTheScanOrder :
    LutInjective lutT ∧ (Rotation.r0 = .r0 ∨ Rotation.r0 = .r180) ∧ (Rotation.r180 = .r0 ∨ Rotation.r180 = .r180) ∧
    (List.finRange 119).reverse.Perm (List.finRange 119) :=
  ⟨lutT_injective, .inl rfl, .inr rfl, List.reverse_perm _⟩

/-- A black grid, and offsets LUT_T never names: 357 and 447. -/
theorem witness_RenderWritesNothingElse :
    (∀ i, (ready 0).grid.get i = ⟨0#6, 0#6, 0#6⟩) ∧
    ∀ a ∈ [(357 : PhysAddr), 447], ∀ i ∈ List.finRange 119,
      (lutT (laneIndex .r270 true false i)).rOff ≠ a ∧ (lutT (laneIndex .r270 true false i)).gOff ≠ a ∧
        (lutT (laneIndex .r270 true false i)).bOff ≠ a := by
  refine ⟨fun i => ?_, fun a ha i _ => ?_⟩
  · show (ready 0).pixel i = _
    rw [State.pixel_eq]
    simp [ready, State.reset, Pixel.black]
  · generalize laneIndex _ _ _ i = c
    have hc := c.isLt
    simp only [List.mem_cons, List.not_mem_nil, or_false] at ha
    rcases ha with rfl | rfl <;> simp only [lutT, ne_eq, Fin.ext_iff] <;> refine ⟨?_, ?_, ?_⟩ <;> intro e <;>
      simp at e <;> omega

theorem witness_RenderIgnoresTheOldBuffer :
    { threePixels with phys := physT }.inited = true ∧ { threePixels with phys := physT }.hung = false := by decide

/-! #### The links -/

theorem witness_FrameSplitsTheBuffer : (List.replicate 448 1#8).length = 448 ∧ 0 ≤ 224 ∧ 224 ≤ 224 := by
  refine ⟨List.length_replicate, by decide, by decide⟩

theorem witness_FrameSendsCommandAndPayload :
    (ready 2).inited = true ∧ (ready 2).hung = false ∧ (∀ len, some (224#8 : Byte) = some len → len.toNat ≤ 224) ∧
    (∀ len, (none : Option Byte) = some len → len.toNat ≤ 224) ∧
    (ready 2).answerAt 0 = .success ∧ (ready 2).answerAt 1 = .success := by
  refine ⟨rfl, rfl, ?_, ?_, rfl, rfl⟩
  · rintro len ⟨⟩
    decide
  · rintro len ⟨⟩

/-- The three ways the frames of FRAME end, the failure on either link; the first length that is too long; the longest
command. -/
theorem witness_FrameStopsAtTheFirstRefusedFrame :
    (ready 2).inited = true ∧ (ready 2).hung = false ∧
    (∀ len, some (224#8 : Byte) = some len → len.toNat ≤ 224) ∧
    ending (framePlan [0xCC#8] (some 224#8) physT) (ready 2).answerAt = .success ∧
    ending (framePlan [0xCC#8] (some 224#8) physT) { ready 0 with answers := [.failure] }.answerAt = .failure ∧
    ending (framePlan [0xCC#8] (some 224#8) physT) { ready 0 with answers := [.success, .failure] }.answerAt = .failure ∧
    ending (framePlan [0xCC#8] (some 224#8) physT) { ready 0 with answers := [.success, .never] }.answerAt = .never ∧
    224 < (225#8 : Byte).toNat ∧
    1 ≤ [0x42#8, 1#8, 2#8, 3#8, 4#8].length ∧ [0x42#8, 1#8, 2#8, 3#8, 4#8].length ≤ 5 := by
  refine ⟨rfl, rfl, ?_, rfl, rfl, rfl, rfl, by decide, by decide, by decide⟩
  rintro len ⟨⟩
  decide

theorem witness_ShowRendersThenSends :
    (ready 4).inited = true ∧ (ready 4).hung = false ∧ ∀ k, k < 4 → (ready 4).answerAt k = .success := by decide

theorem witness_ShowStopsAtTheFirstRefusedFrame (m : Memory) :
    ending (showPlan Config.params m 0#6) (ready 4).answerAt = .success ∧
    ending (showPlan Config.params m 0#6) { ready 0 with answers := [.success, .success, .failure] }.answerAt = .failure ∧
    ending (showPlan Config.params m 0#6) { ready 0 with answers := [.never] }.answerAt = .never := ⟨rfl, rfl, rfl⟩

theorem witness_ShowIsRenderAndTwoFrames :
    (ready 4).inited = true ∧ (ready 4).hung = false ∧ ∀ k, k < 4 → (ready 4).answerAt k = .success := by decide

theorem witness_InitSendsTheEightSteps :
    State.reset.hung = false ∧
    ∀ k, k < 16 → { State.reset with answers := List.replicate 16 .success }.answerAt k = .success := by decide

theorem witness_InitStopsAtTheFirstRefusedFrame :
    State.reset.hung = false ∧
    ending (initPlan Config.params) (ready 16).answerAt = .success ∧
    ending (initPlan Config.params) ({ ready 0 with answers := List.replicate 15 .success ++ [.failure] } : State).answerAt =
      .failure ∧
    ending (initPlan Config.params) { ready 0 with answers := [.never] }.answerAt = .never := ⟨by decide, rfl, rfl, rfl⟩

/-- The core after reset with INIT issued, and all its frames to be taken. -/
def booting : State :=
  { State.reset with pending := [.word 0x1B00000000000000#64], answers := List.replicate 16 .success }

/-- A step that leaves UNINIT. -/
theorem witness_OnlyASuccessfulInitLeavesUninit :
    booting.inited = false ∧ ∃ t, step booting = .next t ∧ t.inited = true := by
  have h : step booting = .next (initWith Config.params (booting.setPending [])) := by
    rw [step_of_ok (i := .init) (rest := []) (by decide) (by decide) rfl (by decide) (by decide), exec_init,
      anyTimeOperation_of_not_hung (by decide)]
  exact ⟨by decide, _, h, by rw [initWith_eq]; rfl⟩

/-- A wire command in UNINIT, the three ways its frames end, and bytes that are none: no byte, an unknown opcode, and a known
one with too few data bytes. -/
theorem witness_WireCommandsAreSentOnBothLinks :
    State.reset.hung = false ∧ ending (onBothLinks [0xCC#8]) (ready 2).answerAt = .success ∧
    ending (onBothLinks [0xCC#8]) { ready 0 with answers := [.success, .failure] }.answerAt = .failure ∧
    ending (onBothLinks [0xCC#8]) { ready 0 with answers := [.never] }.answerAt = .never ∧
    { State.reset with pending := [.wire [0x99#8]] }.hung = false ∧
    { State.reset with pending := [.wire [0x99#8]] }.resetLine = .idle ∧
    { State.reset with pending := [.wire [0x99#8]] }.pending = [.wire [0x99#8]] ∧
    decode (.wire [0x99#8]) = .error .unknownWireOpcode ∧ decode (.wire []) = .error .emptyWireCommand ∧
    decode (.wire [0x37#8]) = .error .wireDataCount := by decide

theorem witness_WriteDisplaySendsPhys :
    { ready 2 with phys := physT }.hung = false ∧
    ending (framePlan [0x80#8, 0x05#8] (some 224#8) physT) (ready 2).answerAt = .success := ⟨rfl, rfl⟩

/-! #### The whole machine -/

theorem witness_QueriesChangeNothing :
    threePixels.inited = true ∧ threePixels.hung = false ∧
    Instr.resolve 16#8 6#8 ∈ [Instr.getPixel 16#8 6#8, .getRotation, .getBrightness, .getOffset 16#8 6#8,
      .resolve 16#8 6#8, .lookup 119#16] := by decide

/-- A change of each piece of state by its writer. PHYS changes whatever the table is: no byte of a render is 0xFF. -/
theorem witness_EachPieceOfStateHasItsWriters :
    (run (.setPixel 0#8 0#8 255#8 0#8 0#8) (ready 0)).grid ≠ (ready 0).grid ∧
    (renderWith Config.params.lut { ready 0 with phys := [(447, 0xFF#8)] }).phys ≠ [(447, 0xFF#8)] ∧
    (run (.setRotation 90#16) (ready 0)).rot ≠ (ready 0).rot ∧
    (run .flipX (ready 0)).flipX ≠ (ready 0).flipX ∧ (run .flipY (ready 0)).flipY ≠ (ready 0).flipY ∧
    (run (.setBrightness 63#6) (ready 0)).bri ≠ (ready 0).bri ∧
    (run .init { ready 0 with answers := [.failure] }).inited ≠ { ready 0 with answers := [.failure] }.inited := by
  refine ⟨fun e => ?_, fun e => ?_, by decide, by decide, by decide, by decide, by decide⟩
  · exact absurd (congrArg (fun g : Grid => g.get 0) e) (by decide)
  · have h := renderBuffer_sixBits Config.params.lut Config.renderOrder (ready 0).grid (ready 0).rot (ready 0).flipX
      (ready 0).flipY 447
    rw [renderWith_phys] at e
    rw [show renderBuffer Config.params.lut Config.renderOrder (ready 0).grid (ready 0).rot (ready 0).flipX
      (ready 0).flipY = _ from e] at h
    exact absurd h (by decide)

theorem witness_GridIsReadOnlyByGetPixelAndRender :
    (∀ x y, Instr.resolve 1#8 1#8 ≠ .getPixel x y) ∧ Instr.resolve 1#8 1#8 ≠ .render ∧
    Instr.resolve 1#8 1#8 ≠ .showDisplay ∧ ∃ t, exec (.resolve 1#8 1#8) threePixels = .next t := by
  refine ⟨?_, by decide, by decide, _, rfl⟩
  rintro x y ⟨⟩

theorem witness_PhysIsReadOnlyByTheFramer :
    (∀ cmd len, Instr.frame [0xCC#8] none ≠ .frame cmd (some len)) ∧ (∀ a, Instr.frame [0xCC#8] none ≠ .writeDisplay a) ∧
    ∃ t, exec (.frame [0xCC#8] none) (ready 2) = .next t := by
  refine ⟨?_, ?_, _, rfl⟩
  · rintro cmd len ⟨⟩
  · rintro a ⟨⟩

/-- An operation that ends, one that does not, and INIT in UNINIT. -/
theorem witness_EveryHostOperationAnswersOnce :
    ((ready 0).inited = true ∧ (ready 0).hung = false ∧ ∃ t, exec .flipX (ready 0) = .next t ∧ t.hung = false) ∧
    (∃ t, exec (.frame [0xCC#8] none) { ready 0 with answers := [.never] } = .next t ∧ t.hung = true) ∧
    (State.reset.inited = false ∧ State.reset.hung = false ∧ ∃ t, exec .init State.reset = .next t) ∧
    IsWireCommand .flipX = false ∧ IsWireCommand (.frame [0xCC#8] none) = false ∧ IsWireCommand .init = false :=
  ⟨⟨rfl, rfl, _, rfl, rfl⟩, ⟨_, rfl, rfl⟩, ⟨rfl, rfl, _, rfl⟩, by decide⟩

/-- Each error, raised by one of its causes. -/
theorem witness_EachErrorHasItsCauses :
    (run (.resolve 0#8 7#8) (ready 0)).responses = (ready 0).responses ++ [0x0100000000#40] ∧
    (run (.setRotation 91#16) (ready 0)).responses = (ready 0).responses ++ [0x0200000000#40] ∧
    (run .init { ready 0 with answers := [.failure] }).responses = [0x0300000000#40] := by decide

/-- An error of SET_ROTATION, of INIT and of SHOW. -/
theorem witness_ErrorsLeaveTheCoreUnchanged :
    (run (.setRotation 91#16) (ready 0)).responses = (ready 0).responses ++ [0x0200000000#40] ∧
    (run .init { ready 0 with answers := [.failure] }).responses =
      { ready 0 with answers := [.failure] }.responses ++ [0x0300000000#40] ∧
    (∃ t, exec .showDisplay { ready 0 with answers := [.failure] } = .next t ∧
      t.responses = { ready 0 with answers := [.failure] }.responses ++ [0x0300000000#40]) ∧
    (0x0200000000#40 : Hrw).toNat / 2 ^ 32 ≠ 0 ∧ (0x0300000000#40 : Hrw).toNat / 2 ^ 32 ≠ 0 := by
  refine ⟨by decide, by decide, ⟨showWith Config.params { ready 0 with answers := [.failure] }, ?_, ?_⟩, by decide,
    by decide⟩
  · rw [exec_showDisplay, hostOperation_of_ready (by decide) (by decide)]
  · rw [showWith_eq _ _ rfl]
    rfl

theorem witness_StepEmitsInLinkOrder :
    ({ ready 2 with pending := [.word 0x192000CC00000000#64] }.hung = false ∧
      (∀ k, { ready 2 with pending := [.word 0x192000CC00000000#64] }.resetLine ≠ .during k) ∧
      ∃ t, step { ready 2 with pending := [.word 0x192000CC00000000#64] } = .next t) ∧
    { ready 2 with pending := [.word 0x192000CC00000000#64], resetLine := .during 1 }.hung = false ∧
    { ready 2 with pending := [.word 0x192000CC00000000#64], resetLine := .during 1 }.resetLine = .during 1 ∧
    ∃ t, step { ready 2 with pending := [.word 0x192000CC00000000#64], resetLine := .during 1 } = .next t := by
  refine ⟨⟨rfl, ?_, _, rfl⟩, rfl, rfl, _, rfl⟩
  rintro k ⟨⟩

theorem witness_OnlyKnownCommandsAreEmitted :
    (∃ t, exec .showDisplay (ready 4) = .next t) ∧ IsWireCommand .showDisplay = false ∧
    ∀ cmd payload, Instr.showDisplay ≠ .frame cmd payload := by
  refine ⟨⟨_, rfl⟩, by decide, ?_⟩
  rintro cmd payload ⟨⟩

end Sys2Proof.Tests
end

section
/-!
PROOFS. The statements about PHYS, from the laws of the canonical form (Laws/Memory).
-/

namespace Sys2Proof.Proofs

open Sys2Proof.Machine Sys2Proof.Laws

/-- Settles O15: the canonical form by `wf_write`, the bytes by `read_write`. -/
theorem physReadsBackWhatWasWritten : Obligations.PhysReadsBackWhatWasWritten :=
  fun _ a v hwf => ⟨wf_write hwf a v, fun b => read_write hwf a b v⟩

end Sys2Proof.Proofs
end

section
/-!
PROOFS. Reset: what every piece of state holds after it, asserted between two operations or during one; and, for the frames
of an operation that reset cuts short, that the next request only adds frames to the record.
-/

namespace Sys2Proof.Proofs

open Sys2Proof.Machine Sys2Proof.Laws

/-! ### The values of R38 -/

/-- A buffer that lists nothing reads as 0 (R38). -/
@[simp] theorem read_empty (a : PhysAddr) : Memory.read [] a = 0#8 := rfl

/-- Every entry of a grid filled with black is black (R38). -/
theorem pixel_of_black {s : State} (h : s.grid = Vector.replicate 119 Pixel.black) (i : PixelIndex) :
    s.pixel i = ⟨0#6, 0#6, 0#6⟩ := by
  rw [State.pixel_eq, h, Vector.getElem_replicate, Pixel.black]

/-- Settles O11: the fields of `State.reset`, read entry by entry and byte by byte. -/
theorem resetStateHoldsTheSpecValues : Obligations.ResetStateHoldsTheSpecValues :=
  ⟨pixel_of_black State.reset_grid, State.reset_rot, State.reset_flipX, State.reset_flipY, State.reset_bri,
    State.reset_inited, fun a => by rw [State.reset_phys, read_empty]⟩

/-! ### The next request -/

/-- The next request always ends in a next state. -/
theorem advance_answers_next (s : State) : ∃ t, advance s = .next t := by
  rcases hh : s.hung with _ | _
  · rcases hp : s.pending with _ | ⟨r, rest⟩
    · exact ⟨s, advance_of_idle hp⟩
    · rcases ha : s.accepts r with _ | _
      · exact ⟨s, advance_of_not_accepted hh hp ha⟩
      · rcases hd : decode r with e | i
        · rw [advance_of_error hh hp ha hd]
          cases r <;> exact ⟨_, rfl⟩
        · rw [advance_of_ok hh hp ha hd]
          exact exec_answers_next i _
  · exact ⟨s, advance_of_hung hh⟩

/-- The frames an instruction presents are added to the record. -/
theorem wire_of_effect {s t : State} {i : Instr} (he : Effect s i t) : ∃ es, t.wire = s.wire ++ es := by
  cases he with
  | notTaken => exact ⟨[], by simp⟩
  | quiet _ _ _ _ _ _ _ hq =>
    refine ⟨[], ?_⟩
    cases hq with
    | ok u v same =>
      obtain ⟨-, -, -, -, -, -, hw⟩ := same
      simp [hw]
    | invalidPixel => simp
    | invalidArgument => simp
  | frame => exact ⟨_, endOf_wire fun _ => rfl⟩
  | shown => exact ⟨_, endOf_wire fun _ => rfl⟩
  | init => exact ⟨_, endOf_wire fun _ => rfl⟩
  | wire => exact ⟨_, rfl⟩

/-- So are the frames of the next request, whatever becomes of it. -/
theorem wire_of_advance {s t : State} (ha : advance s = .next t) : ∃ es, t.wire = s.wire ++ es := by
  obtain rfl | ⟨-, w, rest, e, -, -, -, rfl⟩ | ⟨-, bytes, rest, e, -, -, rfl⟩ | ⟨-, r, rest, i, -, -, -, hx⟩ :=
    advance_cases ha
  · exact ⟨[], by simp⟩
  · exact ⟨[], by simp⟩
  · exact ⟨_, by rw [sendWire_eq]; rfl⟩
  · simpa using wire_of_effect (effect_of_exec hx)

/-! ### Reset -/

/-- Settles O12: by the two forms of an asserted reset, with the frames the operation would have added to the record. -/
theorem resetInterfaceRestoresTheCore : Obligations.ResetInterfaceRestoresTheCore := by
  refine ⟨fun s hr => ?_, fun s u k hr hu => ?_⟩
  · rcases hl : s.resetLine with _ | _ | k
    · exact absurd hl hr
    · exact ⟨_, step_of_reset hl, pixel_of_black (State.applyReset_grid s), by simp⟩
    · obtain ⟨u, hu⟩ := advance_answers_next (s.setResetLine .idle)
      exact ⟨_, step_of_during hl hu, pixel_of_black (State.resetDuring_grid s u k), by simp⟩
  · have ha : advance (s.setResetLine .idle) = .next u := step_of_idle (State.setResetLine_resetLine s .idle) ▸ hu
    obtain ⟨es, hw⟩ := wire_of_advance ha
    rw [State.setResetLine_wire] at hw
    refine ⟨_, es, step_of_during hr ha, hw, State.resetDuring_wire hw k, State.resetDuring_pending s u k,
      State.resetDuring_answers hw k, fun hk => ?_, fun hk => ?_⟩
    · rw [State.resetDuring_responses hw, if_pos hk]
    · rw [State.resetDuring_responses hw, if_neg (by omega)]

end Sys2Proof.Proofs
end

section
/-!
PROOFS. The invariant of the core: it holds after reset, and every step keeps it. Each shared operation of the meanings keeps
it; so does, by the ways an instruction can go (Laws/Effects), every instruction; and so do the next request and a reset.
-/

namespace Sys2Proof.Proofs

open Sys2Proof.Machine Sys2Proof.Laws

/-! ### PHYS, and the state after reset -/

/-- What the invariant says of a buffer: canonical form, and bytes in [0, 63] (R39 (b)). -/
def SixBitBuffer (m : Memory) : Prop := m.wf ∧ ∀ a, (m.read a).toNat ≤ 63

theorem sixBitBuffer_empty : SixBitBuffer [] := ⟨wf_zero, fun a => by rw [read_empty]; decide⟩

/-- Settles O13: nothing is listed in PHYS and nothing stands at the interfaces. -/
theorem resetStateMeetsTheInvariant : Obligations.ResetStateMeetsTheInvariant where
  physCanonical := by rw [State.reset_phys]; exact sixBitBuffer_empty.1
  physSixBits := by rw [State.reset_phys]; exact sixBitBuffer_empty.2
  responsesLegal := by simp
  framesLegal := by simp
  pendingCommands := by simp
  hungByLastFrame := by simp

/-! ### The operations that present no frame -/

theorem inv_sixBitBuffer {s : State} (h : s.Inv) : SixBitBuffer s.phys := ⟨h.physCanonical, h.physSixBits⟩

theorem sixBitBuffer_render (lut : Lut) (order : List PixelIndex) (g : Grid) (rot : Rotation) (fx fy : Bool) :
    SixBitBuffer (renderBuffer lut order g rot fx fy) :=
  ⟨wf_renderBuffer lut order g rot fx fy, renderBuffer_sixBits lut order g rot fx fy⟩

/-- The invariant sees of a state only PHYS, the records, the requests and the flag of a hung operation. -/
theorem inv_congr {s t : State} (h : s.Inv) (hm : SixBitBuffer t.phys) (hr : t.responses = s.responses)
    (hw : t.wire = s.wire) (hp : t.pending = s.pending) (hh : t.hung = s.hung) : t.Inv where
  physCanonical := hm.1
  physSixBits := hm.2
  responsesLegal := hr ▸ h.responsesLegal
  framesLegal := hw ▸ h.framesLegal
  pendingCommands := hp ▸ h.pendingCommands
  hungByLastFrame := hw ▸ hh ▸ h.hungByLastFrame

theorem inv_setInited {s : State} (h : s.Inv) (v : Bool) : (s.setInited v).Inv :=
  inv_congr h (inv_sixBitBuffer h :) rfl rfl rfl rfl

theorem inv_setResetLine {s : State} (h : s.Inv) (v : ResetLine) : (s.setResetLine v).Inv :=
  inv_congr h (inv_sixBitBuffer h :) rfl rfl rfl rfl

theorem inv_setPhys {s : State} (h : s.Inv) {m : Memory} (hm : SixBitBuffer m) : (s.setPhys m).Inv :=
  inv_congr h hm rfl rfl rfl rfl

/-- Taking the oldest request leaves no request that was not there before. -/
theorem inv_setPending {s : State} (h : s.Inv) {r : Request} {rest : List Request} (hp : s.pending = r :: rest) :
    (s.setPending rest).Inv :=
  { h with pendingCommands := fun bytes hb => h.pendingCommands bytes (hp ▸ List.mem_cons_of_mem r hb) }

theorem inv_addResponse {s : State} (h : s.Inv) {w : Hrw} (hw : LegalResponse w) : (s.addResponse w).Inv where
  __ := h
  responsesLegal := by
    simp only [State.addResponse_responses, List.forall_mem_append, List.forall_mem_singleton]
    exact ⟨h.responsesLegal, hw⟩

theorem inv_respond {s : State} (h : s.Inv) (v : BitVec 32) : (respond v s).Inv :=
  inv_addResponse h (legalResponse_ok v)

theorem inv_raise {s : State} (h : s.Inv) (e : ErrorKind) : (raise e s).Inv :=
  inv_addResponse h (legalResponse_error e)

/-! ### The operations that present frames -/

/-- Every frame of a sequence has 1 to 229 bytes (R101). -/
def LegalPlan (plan : List (Link × List Byte)) : Prop := ∀ f ∈ plan, 1 ≤ f.2.length ∧ f.2.length ≤ 229

theorem legalPlan_append {p q : List (Link × List Byte)} (hp : LegalPlan p) (hq : LegalPlan q) : LegalPlan (p ++ q) :=
  List.forall_mem_append.2 ⟨hp, hq⟩

theorem legalPlan_pair {f₀ f₁ : List Byte} (h₀ : 1 ≤ f₀.length ∧ f₀.length ≤ 229)
    (h₁ : 1 ≤ f₁.length ∧ f₁.length ≤ 229) : LegalPlan [(.link0, f₀), (.link1, f₁)] := by
  simpa [LegalPlan] using ⟨h₀, h₁⟩

theorem legalPlan_onBothLinks {bytes : List Byte} (h : 1 ≤ bytes.length ∧ bytes.length ≤ 229) :
    LegalPlan (onBothLinks bytes) :=
  legalPlan_pair h h

@[simp] theorem payloadOf_length (m : Memory) (k : Link) (n : Nat) : (payloadOf m k n).length = n := by
  simp [payloadOf]

/-- 1 to 5 command bytes and a payload of at most 224 (R205). -/
theorem legalPlan_frame {cmd : List Byte} {payload : Option Byte} (hc : 1 ≤ cmd.length ∧ cmd.length ≤ 5)
    (hl : ∀ len, payload = some len → len.toNat ≤ 224) (m : Memory) : LegalPlan (framePlan cmd payload m) := by
  rcases payload with _ | len
  · exact legalPlan_onBothLinks (by omega)
  · have := hl len rfl
    refine legalPlan_pair ?_ ?_ <;> rw [List.length_append, payloadOf_length] <;> omega

theorem legalPlan_show (p : Params) (m : Memory) (bri : Brightness) : LegalPlan (showPlan p m bri) :=
  legalPlan_append (legalPlan_pair (by simp) (by simp)) (legalPlan_onBothLinks (by simp))

theorem legalPlan_init (p : Params) : LegalPlan (initPlan p) := by
  repeat' apply legalPlan_append
  all_goals
    refine legalPlan_onBothLinks ?_
    simp only [List.length_cons, List.length_nil, List.length_replicate]
    omega

/-- A state after a sequence of legal frames: none of them left an operation in progress but the last, never answered. -/
theorem inv_afterFrames {s : State} (h : s.Inv) (hh : s.hung = false) {plan : List (Link × List Byte)}
    (hp : LegalPlan plan) (ans : Nat → Answer) : (afterFrames s (presented plan ans) (ending plan ans)).Inv where
  __ := h
  framesLegal := List.forall_mem_append.2 ⟨h.framesLegal, fun _ he => hp _ (mem_presented he)⟩
  hungByLastFrame hn := by
    have ha : ending plan ans = .never := by simpa [afterFrames, hh] using hn
    obtain ⟨e, he, hea⟩ := getLast_presented ha (by decide)
    exact ⟨e, by simp [afterFrames, List.getLast?_append, he], hea⟩

/-- The end of an operation that transfers: a legal response, or none where it does not end. -/
theorem inv_endOf {s : State} (h : s.Inv) (hh : s.hung = false) {plan : List (Link × List Byte)} (hp : LegalPlan plan)
    (ans : Nat → Answer) {onSuccess : State → State} (hf : ∀ u, u.Inv → (onSuccess u).Inv) :
    (endOf (ending plan ans) s (presented plan ans) onSuccess).Inv := by
  have ha := inv_afterFrames h hh hp ans
  rcases he : ending plan ans with _ | _ | _ <;> rw [he] at ha
  · exact inv_respond (hf _ ha) 0#32
  · exact inv_raise ha .transferError
  · exact ha

/-! ### One instruction, one step -/

theorem inv_of_quiet {s t : State} {i : Instr} (h : s.Inv) (hq : Quiet s i t) : t.Inv := by
  cases hq with
  | ok u v same phys =>
    obtain ⟨-, hh, -, hp, -, hr, hw⟩ := same
    have hm : SixBitBuffer u.phys := by
      rcases phys with hm | ⟨-, hm⟩ <;> rw [hm]
      · exact inv_sixBitBuffer h
      · exact sixBitBuffer_render ..
    exact inv_respond (inv_congr h hm hr hw hp hh) v
  | invalidPixel => exact inv_raise h .invalidPixel
  | invalidArgument => exact inv_raise h .invalidArgument

/-- Every well-formed instruction keeps the invariant. -/
theorem inv_of_effect {s t : State} {i : Instr} (h : s.Inv) (hi : i.WellFormed = true) (he : Effect s i t) : t.Inv := by
  cases he with
  | notTaken => exact h
  | quiet _ _ _ _ _ _ _ hq => exact inv_of_quiet h hq
  | frame cmd payload _ hh heq hl =>
    subst heq
    have hc : 1 ≤ cmd.length ∧ cmd.length ≤ 5 := by simpa [Instr.WellFormed] using hi
    exact inv_endOf h hh (legalPlan_frame hc hl _) _ fun _ hu => hu
  | shown m _ hh _ hm =>
    have hm : SixBitBuffer m := hm ▸ sixBitBuffer_render _ _ _ _ _ _
    exact inv_endOf (inv_setPhys h hm) hh (legalPlan_show _ _ _) _ fun _ hu => hu
  | init hh => exact inv_endOf (inv_setInited h false) hh (legalPlan_init _) _ fun _ hu => inv_setInited hu true
  | wire f hh _ hl h1 h2 => exact inv_afterFrames h hh (legalPlan_pair ⟨h1, h2⟩ (hl ▸ ⟨h1, h2⟩)) _

/-- What is decoded is well-formed. -/
theorem wellFormed_of_decode {r : Request} {i : Instr} (h : decode r = .ok i) : i.WellFormed = true := by
  cases r with
  | word w => exact (encode_of_decodeWord h).1
  | wire bytes => exact (encode_of_decodeWire h).1

/-- The next request keeps the invariant, whatever becomes of it. -/
theorem inv_of_advance {s t : State} (h : s.Inv) (ha : advance s = .next t) : t.Inv := by
  obtain rfl | ⟨-, w, rest, e, hp, -, -, rfl⟩ | ⟨hh, bytes, rest, e, hp, -, rfl⟩ | ⟨-, r, rest, i, hp, -, hd, hx⟩ :=
    advance_cases ha
  · exact h
  · exact inv_raise (inv_setPending h hp) .invalidArgument
  · obtain ⟨h1, h5⟩ := h.pendingCommands bytes (by simp [hp])
    rw [sendWire_eq]
    exact inv_afterFrames (inv_setPending h hp) hh (legalPlan_onBothLinks ⟨h1, by omega⟩) _
  · exact inv_of_effect (inv_setPending h hp) (wellFormed_of_decode hd) (effect_of_exec hx)

theorem inv_applyReset {s : State} (h : s.Inv) : s.applyReset.Inv :=
  { resetStateMeetsTheInvariant with
    responsesLegal := h.responsesLegal
    framesLegal := h.framesLegal
    pendingCommands := h.pendingCommands
    hungByLastFrame := by simp }

/-- A reset during an operation leaves a part of what the operation would have left, and hangs nothing. -/
theorem inv_resetDuring {s u : State} (hs : s.Inv) (hu : u.Inv) (hw : ∃ es, u.wire = s.wire ++ es) (k : Nat) :
    (s.resetDuring u k).Inv where
  physCanonical := by rw [State.resetDuring_phys]; exact sixBitBuffer_empty.1
  physSixBits := by rw [State.resetDuring_phys]; exact sixBitBuffer_empty.2
  responsesLegal := by
    obtain ⟨es, hes⟩ := hw
    rw [State.resetDuring_responses hes]
    split
    · exact hs.responsesLegal
    · exact hu.responsesLegal
  framesLegal := by
    obtain ⟨es, hes⟩ := hw
    rw [State.resetDuring_wire hes]
    refine List.forall_mem_append.2 ⟨hs.framesLegal, fun f hf => hu.framesLegal f ?_⟩
    rw [hes]
    exact List.mem_append_right _ (List.mem_of_mem_take hf)
  pendingCommands := by rw [State.resetDuring_pending]; exact hu.pendingCommands
  hungByLastFrame := by simp

/-- Settles O14, by the three cases of a step: reset, the next request, the next request cut short by reset. -/
theorem stepKeepsTheInvariant : Obligations.StepKeepsTheInvariant := by
  intro s t h hs
  obtain ⟨-, rfl⟩ | ⟨-, ha⟩ | ⟨k, u, -, ha, rfl⟩ := step_cases hs
  · exact inv_applyReset h
  · exact inv_of_advance h ha
  · exact inv_resetDuring h (inv_of_advance (inv_setResetLine h .idle) ha) (by simpa using wire_of_advance ha) k

end Sys2Proof.Proofs
end

section
/-!
PROOFS. The canonical form of PHYS has one buffer for each content: the buffer lists exactly the bytes that read as other
than 0, in the order of their offsets.
-/

namespace Sys2Proof.Proofs

open Sys2Proof.Machine Sys2Proof.Laws

/-- What a buffer in canonical form lists, said by reading it. -/
theorem mem_iff_read {m : Memory} (h : m.wf) (c : Host.Cell) :
    c ∈ m ↔ ∃ a : PhysAddr, c = (a.val, m.read a) ∧ m.read a ≠ 0#8 := by
  obtain ⟨rising, entries⟩ := h
  constructor
  · intro hc
    obtain ⟨hlt, hne⟩ := entries c hc
    have hl : m.read ⟨c.1, hlt⟩ = c.2 := lookup_of_mem rising hc
    exact ⟨⟨c.1, hlt⟩, by rw [hl], hl ▸ hne⟩
  · rintro ⟨a, rfl, hne⟩
    by_contra hn
    refine hne (lookup_of_not_mem fun d hd hda => hn ?_)
    have hl : m.read a = d.2 := by rw [Memory.read, ← hda, lookup_of_mem rising hd]
    rwa [hl, ← hda]

/-- Settles O16: two rising lists with the same entries are the same list. -/
theorem physCanonicalFormIsUnique : Obligations.PhysCanonicalFormIsUnique := by
  intro m m' h h' hread
  have : Std.Irrefl fun c d : Host.Cell => c.1 < d.1 := ⟨fun c => Nat.lt_irrefl c.1⟩
  have : Std.Antisymm fun c d : Host.Cell => c.1 < d.1 := ⟨fun c d hcd hdc => absurd hdc (Nat.lt_asymm hcd)⟩
  refine h.1.eq_of_mem_iff h'.1 fun c => ?_
  simp only [mem_iff_read h, mem_iff_read h', hread]

end Sys2Proof.Proofs
end

section
/-!
PROOFS. Which instruction writes which piece of the core's state, by the ways an instruction can go (Laws/Effects).
-/

namespace Sys2Proof.Proofs

open Sys2Proof.Machine Sys2Proof.Laws

/-- Settles O53, by the ways an instruction can go: a transfer writes none of these fields, and INIT's writes INITED. -/
theorem eachPieceOfStateHasItsWriters : Obligations.EachPieceOfStateHasItsWriters := by
  intro i s t hx
  cases effect_of_exec hx with
  | notTaken => simp
  | quiet _ _ _ _ _ _ _ hq =>
    cases hq with
    | ok u v same phys grid rot flipX flipY bri =>
      obtain ⟨hi, -, hr, hp, -, -, -⟩ := same
      exact ⟨grid.resolve_left, fun h => .inl (phys.resolve_left h).1, rot.resolve_left, flipX.resolve_left,
        flipY.resolve_left, bri.resolve_left, fun h => absurd hi h, hp, hr⟩
    | invalidPixel => simp
    | invalidArgument => simp
  | frame cmd payload =>
    rcases ending (framePlan cmd payload s.phys) s.answerAt with _ | _ | _ <;> simp [endOf, afterFrames]
  | shown m _ _ he =>
    rcases ending (showPlan Config.params m s.bri) s.answerAt with _ | _ | _ <;> simp [endOf, afterFrames, he]
  | init _ he =>
    rcases ending (initPlan Config.params) s.answerAt with _ | _ | _ <;> simp [endOf, afterFrames, he]
  | wire => simp [afterFrames]

end Sys2Proof.Proofs
end

section
/-!
PROOFS. Which instruction depends on G and which on PHYS. An instruction ignores a buffer when replacing the buffer before it
changes nothing but the buffer after it; this is shown once for both buffers, for every instruction that reads neither.
-/

namespace Sys2Proof.Proofs

open Sys2Proof.Machine Sys2Proof.Laws

/-! ### Replacing a buffer -/

/-- Replacing a buffer, G or PHYS, is seen by no other field, and commutes with every update of another field; a store to G
leaves states that differ at most in the buffer. -/
structure ReplacesBuffer {β : Type} (put : State → β → State) : Prop where
  rot         : ∀ s b, (put s b).rot = s.rot
  flipX       : ∀ s b, (put s b).flipX = s.flipX
  flipY       : ∀ s b, (put s b).flipY = s.flipY
  bri         : ∀ s b, (put s b).bri = s.bri
  inited      : ∀ s b, (put s b).inited = s.inited
  hung        : ∀ s b, (put s b).hung = s.hung
  answers     : ∀ s b, (put s b).answers = s.answers
  wire        : ∀ s b, (put s b).wire = s.wire
  setRot      : ∀ s b v, (put s b).setRot v = put (s.setRot v) b
  toggleFlipX : ∀ s b, (put s b).toggleFlipX = put s.toggleFlipX b
  toggleFlipY : ∀ s b, (put s b).toggleFlipY = put s.toggleFlipY b
  setBri      : ∀ s b v, (put s b).setBri v = put (s.setBri v) b
  setInited   : ∀ s b v, (put s b).setInited v = put (s.setInited v) b
  addResponse : ∀ s b w, (put s b).addResponse w = put (s.addResponse w) b
  afterFrames : ∀ s b es a, afterFrames (put s b) es a = put (afterFrames s es a) b
  setPixelAt  : ∀ s b i p, ∃ b', (put s b).setPixelAt i p = put (s.setPixelAt i p) b'
  fillGrid    : ∀ s b p, ∃ b', (put s b).fillGrid p = put (s.fillGrid p) b'

theorem replacesBuffer_setPhys : ReplacesBuffer State.setPhys := by
  constructor
  case setPixelAt => exact fun _ _ _ _ => ⟨_, rfl⟩
  case fillGrid => exact fun _ _ _ => ⟨_, rfl⟩
  all_goals intros; rfl

theorem replacesBuffer_setGrid : ReplacesBuffer State.setGrid := by
  constructor
  case setPixelAt => exact fun _ _ _ _ => ⟨_, rfl⟩
  case fillGrid => exact fun _ _ _ => ⟨_, rfl⟩
  all_goals intros; rfl

/-- The effect of an operation on the rest of the state does not depend on the buffer. -/
def Ignores {β : Type} (put : State → β → State) (run : State → State) : Prop :=
  ∀ s b, ∃ b', run (put s b) = put (run s) b'

/-- An instruction whose effect on the rest of the state does not depend on the buffer. -/
def ExecIgnores {β : Type} (put : State → β → State) (i : Instr) : Prop :=
  ∀ s t b, exec i s = .next t → ∃ b', exec i (put s b) = .next (put t b')

section

variable {β : Type} {put : State → β → State} (h : ReplacesBuffer put)
include h

/-! ### The shared operations -/

theorem execIgnores_of_hostOperation {i : Instr} {run : State → State} (he : ∀ s, exec i s = hostOperation s run)
    (hr : Ignores put run) : ExecIgnores put i := by
  intro s t b hx
  rw [he] at hx ⊢
  rcases hostOperation_cases hx with ⟨hi, hh, rfl⟩ | ⟨hn, rfl⟩
  · obtain ⟨b', hb⟩ := hr s b
    rw [hostOperation_of_ready ((h.inited s b).trans hi) ((h.hung s b).trans hh), hb]
    exact ⟨b', rfl⟩
  · exact ⟨b, hostOperation_of_not_ready (by rwa [h.inited, h.hung]) run⟩

theorem execIgnores_of_anyTimeOperation {i : Instr} {run : State → State} (he : ∀ s, exec i s = anyTimeOperation s run)
    (hr : Ignores put run) : ExecIgnores put i := by
  intro s t b hx
  rw [he] at hx ⊢
  rcases anyTimeOperation_cases hx with ⟨hh, rfl⟩ | ⟨hh, rfl⟩
  · obtain ⟨b', hb⟩ := hr s b
    rw [anyTimeOperation_of_not_hung ((h.hung s b).trans hh), hb]
    exact ⟨b', rfl⟩
  · exact ⟨b, anyTimeOperation_of_hung ((h.hung _ b).trans hh) run⟩

/-- A response whose data is not read from the buffer. -/
theorem ignores_respond {data : State → BitVec 32} {write : State → State} (hd : ∀ s b, data (put s b) = data s)
    (hw : Ignores put write) : Ignores put fun s => respond (data s) (write s) := by
  intro s b
  obtain ⟨b', hb⟩ := hw s b
  refine ⟨b', ?_⟩
  simp only [hd, hb, respond]
  exact h.addResponse ..

theorem ignores_raise (e : ErrorKind) : Ignores put (raise e) :=
  fun s b => ⟨b, h.addResponse s b _⟩

/-- An answer of the core that is not read from the buffer. -/
theorem ignores_respondOr {α : Type} {r : State → Except ErrorKind α} {data : State → α → BitVec 32}
    (hr : ∀ s b, r (put s b) = r s) (hd : ∀ s b v, data (put s b) v = data s v) :
    Ignores put fun s => respondOr (r s) (data s) s := by
  intro s b
  refine ⟨b, ?_⟩
  simp only [hr]
  rcases r s with e | v
  · exact h.addResponse s b _
  · simp only [respondOr, hd]
    exact h.addResponse s b _

theorem ignores_storePixel (x y : Byte) (p : Pixel) : Ignores put (storePixel x y p) := by
  by_cases hr : InRange x.toInt y.toInt
  · intro s b
    obtain ⟨i, -, hi, -⟩ := storePixel_of_inRange hr p s
    obtain ⟨b', hb⟩ := h.setPixelAt s b i p
    refine ⟨b', ?_⟩
    simp only [storePixel, hi, hb]
    exact h.addResponse ..
  · intro s b
    simp only [storePixel_of_not_inRange hr]
    exact ignores_raise h .invalidPixel s b

theorem ignores_fillGrid (p : Pixel) : Ignores put fun s => respond 0#32 (s.fillGrid p) :=
  ignores_respond h (data := fun _ => 0#32) (fun _ _ => rfl) fun s b => h.fillGrid s b p

theorem ignores_storeRotation (deg : Nat) : Ignores put (storeRotation deg) := by
  intro s b
  refine ⟨b, ?_⟩
  unfold storeRotation
  rcases legalRotation deg with e | v
  · exact h.addResponse s b _
  · simp only [h.setRot, respond]
    exact h.addResponse ..

/-- The transport's answers are not read from the buffer. -/
theorem answerAt_put (s : State) (b : β) : (put s b).answerAt = s.answerAt :=
  State.answerAt_congr (h.answers s b) (h.wire s b)

/-- The end of a transfer commutes with replacing the buffer, where what follows the last frame does. -/
theorem endOf_put {f : State → State} (hf : ∀ s b, f (put s b) = put (f s) b) (a : Answer) (s : State)
    (es : List Emission) (b : β) : endOf a (put s b) es f = put (endOf a s es f) b := by
  cases a with
  | success =>
    simp only [endOf, h.afterFrames, hf]
    exact h.addResponse ..
  | failure =>
    simp only [endOf, h.afterFrames]
    exact h.addResponse ..
  | never => exact h.afterFrames s b es _

theorem ignores_sendWire (f : List Byte × List Byte) : Ignores put (sendWire f) := by
  intro s b
  rw [sendWire_eq, sendWire_eq, answerAt_put h]
  exact ⟨b, h.afterFrames ..⟩

/-- FRAME, where its payload is not read from the buffer. -/
theorem ignores_frame {cmd : List Byte} {payload : Option Byte}
    (hp : ∀ s b, framePlan cmd payload (put s b).phys = framePlan cmd payload s.phys) :
    Ignores put (frameAndTransfer cmd payload) := by
  intro s b
  by_cases hl : ∀ len, payload = some len → len.toNat ≤ 224
  · rw [frameAndTransfer_eq hl, frameAndTransfer_eq hl, answerAt_put h, hp]
    exact ⟨b, endOf_put h (fun _ _ => rfl) _ _ _ _⟩
  · push Not at hl
    obtain ⟨len, rfl, hl⟩ := hl
    rw [frameAndTransfer_of_long hl, frameAndTransfer_of_long hl]
    exact ignores_raise h .invalidArgument s b

/-- INIT sends literal zeros, and not PHYS (R225). -/
theorem ignores_init (p : Params) : Ignores put (initWith p) := by
  intro s b
  rw [initWith_eq, initWith_eq, answerAt_put h, h.setInited]
  exact ⟨b, endOf_put h (fun s b => h.setInited s b true) _ _ _ _⟩

/-! ### The instructions that read neither buffer -/

/-- Every instruction but those that read G (R23) and those that read PHYS (R31). -/
theorem execIgnores_of_readsNoBuffer (i : Instr) (hget : ∀ x y, i ≠ .getPixel x y) (hrender : i ≠ .render)
    (hshow : i ≠ .showDisplay) (hframe : ∀ cmd len, i ≠ .frame cmd (some len)) (hwd : ∀ a, i ≠ .writeDisplay a) :
    ExecIgnores put i := by
  cases i with
  | getPixel x y => exact absurd rfl (hget x y)
  | render => exact absurd rfl hrender
  | showDisplay => exact absurd rfl hshow
  | writeDisplay a => exact absurd rfl (hwd a)
  | setPixel x y r g b => exact execIgnores_of_hostOperation h (exec_setPixel x y r g b) (ignores_storePixel h x y _)
  | clearPixel x y => exact execIgnores_of_hostOperation h (exec_clearPixel x y) (ignores_storePixel h x y _)
  | setAll r g b => exact execIgnores_of_hostOperation h (exec_setAll r g b) (ignores_fillGrid h _)
  | clear => exact execIgnores_of_hostOperation h exec_clear (ignores_fillGrid h _)
  | getOffset x y =>
    exact execIgnores_of_hostOperation h (exec_getOffset x y) (ignores_respondOr h (fun _ _ => rfl) fun _ _ _ => rfl)
  | resolve x y =>
    refine execIgnores_of_hostOperation h (exec_resolve x y) (ignores_respondOr h (fun s b => ?_) fun _ _ _ => rfl)
    rw [h.rot, h.flipX, h.flipY]
  | lookup c =>
    exact execIgnores_of_hostOperation h (exec_lookup c) (ignores_respondOr h (fun _ _ => rfl) fun _ _ _ => rfl)
  | setRotation deg => exact execIgnores_of_hostOperation h (exec_setRotation deg) (ignores_storeRotation h _)
  | getRotation =>
    refine execIgnores_of_hostOperation h exec_getRotation (ignores_respond h (fun s b => ?_) fun s b => ⟨b, rfl⟩)
    rw [h.rot]
  | getBrightness =>
    refine execIgnores_of_hostOperation h exec_getBrightness (ignores_respond h (fun s b => ?_) fun s b => ⟨b, rfl⟩)
    rw [h.bri]
  | flipX =>
    exact execIgnores_of_hostOperation h exec_flipX
      (ignores_respond h (fun _ _ => rfl) fun s b => ⟨b, h.toggleFlipX s b⟩)
  | flipY =>
    exact execIgnores_of_hostOperation h exec_flipY
      (ignores_respond h (fun _ _ => rfl) fun s b => ⟨b, h.toggleFlipY s b⟩)
  | setBrightness code =>
    exact execIgnores_of_hostOperation h (exec_setBrightness code)
      (ignores_respond h (fun _ _ => rfl) fun s b => ⟨b, h.setBri s b code⟩)
  | frame cmd payload =>
    cases payload with
    | none => exact execIgnores_of_hostOperation h (exec_frame cmd none) (ignores_frame h fun _ _ => rfl)
    | some len => exact absurd rfl (hframe cmd len)
  | init => exact execIgnores_of_anyTimeOperation h exec_init (ignores_init h _)
  | softReset => exact execIgnores_of_anyTimeOperation h exec_softReset (ignores_sendWire h _)
  | globalBrightness d => exact execIgnores_of_anyTimeOperation h (exec_globalBrightness d) (ignores_sendWire h _)
  | comPinCtrl c => exact execIgnores_of_anyTimeOperation h (exec_comPinCtrl c) (ignores_sendWire h _)
  | rowPinCtrl a b c d => exact execIgnores_of_anyTimeOperation h (exec_rowPinCtrl a b c d) (ignores_sendWire h _)
  | readDisplay => exact execIgnores_of_anyTimeOperation h exec_readDisplay (ignores_sendWire h _)
  | systemCtrl d => exact execIgnores_of_anyTimeOperation h (exec_systemCtrl d) (ignores_sendWire h _)
  | scrollCtrl d => exact execIgnores_of_anyTimeOperation h (exec_scrollCtrl d) (ignores_sendWire h _)

end

/-! ### G -/

/-- FRAME reads PHYS, and not G. -/
theorem execIgnores_frame_grid (cmd : List Byte) (payload : Option Byte) :
    ExecIgnores State.setGrid (.frame cmd payload) :=
  execIgnores_of_hostOperation replacesBuffer_setGrid (exec_frame cmd payload)
    (ignores_frame replacesBuffer_setGrid fun _ _ => rfl)

/-- WRITE_DISPLAY sends PHYS, and not G. -/
theorem execIgnores_writeDisplay_grid (a : Byte) : ExecIgnores State.setGrid (.writeDisplay a) :=
  execIgnores_of_anyTimeOperation replacesBuffer_setGrid (exec_writeDisplay a)
    fun s g => ignores_sendWire replacesBuffer_setGrid (writeDisplayFrames a s.phys.bytes) s g

/-- Settles O54: the readers of PHYS ignore G, and so does every instruction that reads neither buffer. -/
theorem gridIsReadOnlyByGetPixelAndRender : Obligations.GridIsReadOnlyByGetPixelAndRender := by
  intro i s t g hget hrender hshow hx
  have hi : ExecIgnores State.setGrid i := by
    by_cases hframe : ∃ cmd len, i = .frame cmd (some len)
    · obtain ⟨cmd, len, rfl⟩ := hframe
      exact execIgnores_frame_grid cmd (some len)
    · by_cases hwd : ∃ a, i = .writeDisplay a
      · obtain ⟨a, rfl⟩ := hwd
        exact execIgnores_writeDisplay_grid a
      · push Not at hframe hwd
        exact execIgnores_of_readsNoBuffer replacesBuffer_setGrid i hget hrender hshow hframe hwd
  obtain ⟨g', hg⟩ := hi s t g hx
  exact ⟨_, hg, rfl⟩

/-! ### PHYS -/

/-- GET_PIXEL reads G, and not PHYS. -/
theorem execIgnores_getPixel_phys (x y : Byte) : ExecIgnores State.setPhys (.getPixel x y) :=
  execIgnores_of_hostOperation replacesBuffer_setPhys (exec_getPixel x y)
    (ignores_respondOr replacesBuffer_setPhys (fun _ _ => rfl) fun _ _ _ => rfl)

/-- What PHYS held before a render is not seen after it (R167). -/
theorem renderWith_setPhys (lut : Lut) (s : State) (m : Memory) : renderWith lut (s.setPhys m) = renderWith lut s := rfl

theorem setPhys_self (s : State) : s.setPhys s.phys = s := rfl

theorem ignores_renderWith_phys (lut : Lut) : Ignores State.setPhys (renderWith lut) :=
  fun s m => ⟨(renderWith lut s).phys, by rw [renderWith_setPhys, setPhys_self]⟩

theorem execIgnores_render_phys : ExecIgnores State.setPhys .render :=
  execIgnores_of_hostOperation replacesBuffer_setPhys exec_render
    (ignores_respond replacesBuffer_setPhys (fun _ _ => rfl) (ignores_renderWith_phys _))

/-- SHOW reads only the PHYS that it has itself rendered (R223). -/
theorem execIgnores_show_phys : ExecIgnores State.setPhys .showDisplay :=
  execIgnores_of_hostOperation replacesBuffer_setPhys exec_showDisplay fun s m => by
    refine ⟨(showWith Config.params s).phys, ?_⟩
    rw [setPhys_self, showWith, renderWith_setPhys, ← showWith]

/-- Settles O55: the readers of G ignore what PHYS held before them, and so does every instruction that reads neither
buffer. -/
theorem physIsReadOnlyByTheFramer : Obligations.PhysIsReadOnlyByTheFramer := by
  intro i s t m hframe hwd hx
  have hi : ExecIgnores State.setPhys i := by
    by_cases hget : ∃ x y, i = .getPixel x y
    · obtain ⟨x, y, rfl⟩ := hget
      exact execIgnores_getPixel_phys x y
    · by_cases hrender : i = .render
      · exact hrender ▸ execIgnores_render_phys
      · by_cases hshow : i = .showDisplay
        · exact hshow ▸ execIgnores_show_phys
        · push Not at hget
          exact execIgnores_of_readsNoBuffer replacesBuffer_setPhys i hget hrender hshow hframe hwd
  obtain ⟨m', hm⟩ := hi s t m hx
  exact ⟨_, hm, rfl⟩

end Sys2Proof.Proofs
end

section
/-!
PROOFS. The order of the frames on the links: a sequence whose commands go to both links with frames of one length presents
its frames in that order; and so does every instruction, every request and every step, cut short by reset or not.
-/

namespace Sys2Proof.Proofs

open Sys2Proof.Machine Sys2Proof.Laws

/-! ### Sequences of commands -/

/-- Each command goes to link 0 and then to link 1, the two frames of one length (R64, R205 (a)). -/
inductive PairedPlan : List (Link × List Byte) → Prop
  | nil : PairedPlan []
  | command {f₀ f₁ : List Byte} {rest : List (Link × List Byte)} (hl : f₀.length = f₁.length) (h : PairedPlan rest) :
      PairedPlan ((.link0, f₀) :: (.link1, f₁) :: rest)

@[simp] theorem framePlan_length (cmd : List Byte) (payload : Option Byte) (m : Memory) :
    (framePlan cmd payload m).length = 2 := by
  cases payload <;> rfl

@[simp] theorem showPlan_length (p : Params) (m : Memory) (bri : Brightness) : (showPlan p m bri).length = 4 := rfl

@[simp] theorem initPlan_length (p : Params) : (initPlan p).length = 16 := rfl

theorem pairedPlan_frame (cmd : List Byte) (payload : Option Byte) (m : Memory) :
    PairedPlan (framePlan cmd payload m) := by
  rcases payload with _ | len
  · exact .command rfl .nil
  · exact .command (by simp) .nil

theorem pairedPlan_show (p : Params) (m : Memory) (bri : Brightness) : PairedPlan (showPlan p m bri) :=
  .command (by simp) (.command rfl .nil)

theorem pairedPlan_init (p : Params) : PairedPlan (initPlan p) :=
  .command rfl <| .command rfl <| .command rfl <| .command rfl <| .command rfl <| .command rfl <| .command rfl <|
    .command rfl .nil

/-- The frames presented of such a sequence are in link order: each command's frames by the answers to the two. -/
theorem inLinkOrder_presented {plan : List (Link × List Byte)} (hp : PairedPlan plan) (ans : Nat → Answer) :
    InLinkOrder (presented plan ans) := by
  induction hp generalizing ans with
  | nil => trivial
  | command hl _ ih =>
    rcases h0 : ans 0 with _ | _ | _
    · rcases h1 : ans 1 with _ | _ | _
      · simpa [presented, InLinkOrder, h0, h1, hl] using ih _
      · simp [presented, InLinkOrder, h0, h1, hl]
      · simp [presented, InLinkOrder, h0, h1, hl]
    · simp [presented, InLinkOrder, h0]
    · simp [presented, InLinkOrder, h0]

/-- A sequence is never answered exactly where the last frame presented is not. -/
theorem ending_eq_never_iff (plan : List (Link × List Byte)) (ans : Nat → Answer) :
    ending plan ans = .never ↔ ∃ e, (presented plan ans).getLast? = some e ∧ e.answer = .never := by
  refine ⟨fun h => getLast_presented h (by decide), ?_⟩
  rintro ⟨e, he, hea⟩
  have hne : plan ≠ [] := by
    rintro rfl
    cases he
  obtain ⟨e', he', hea'⟩ := getLast_presented_answer (ans := ans) hne
  obtain rfl : e' = e := Option.some.inj (he'.symm.trans he)
  exact hea'.symm.trans hea

/-! ### What is added to the record -/

/-- From s to t the frames es are added to the record, in link order and at most 16 (R64, R225), each has used up an answer,
and an operation is in progress exactly when the last of them was never answered (R250). -/
structure Emits (s t : State) (es : List Emission) : Prop where
  wire    : t.wire = s.wire ++ es
  answers : t.answers = s.answers.drop es.length
  order   : InLinkOrder es
  atMost  : es.length ≤ 16
  hung    : t.hung = true ↔ ∃ e, es.getLast? = some e ∧ e.answer = .never

/-- Where nothing is presented. -/
theorem emits_nil {s t : State} (hw : t.wire = s.wire) (ha : t.answers = s.answers) (hh : t.hung = false) :
    Emits s t [] where
  wire := by simp [hw]
  answers := by simp [ha]
  order := trivial
  atMost := by simp
  hung := by simp [hh]

/-- Of the state before only the record and the answers count. -/
theorem emits_congr {s s' t : State} {es : List Emission} (h : Emits s' t es) (hw : s'.wire = s.wire)
    (ha : s'.answers = s.answers) : Emits s t es :=
  { h with wire := hw ▸ h.wire, answers := ha ▸ h.answers }

/-- The state after the presented frames of a sequence of commands. -/
theorem emits_afterFrames {s : State} (hh : s.hung = false) {plan : List (Link × List Byte)} (hp : PairedPlan plan)
    (hl : plan.length ≤ 16) (ans : Nat → Answer) :
    Emits s (afterFrames s (presented plan ans) (ending plan ans)) (presented plan ans) where
  wire := rfl
  answers := rfl
  order := inLinkOrder_presented hp ans
  atMost := (presented_length_le plan ans).trans hl
  hung := by simp [← ending_eq_never_iff, afterFrames, hh]

theorem endOf_answers {a : Answer} {s : State} {es : List Emission} {f : State → State}
    (hf : ∀ u, (f u).answers = u.answers) : (endOf a s es f).answers = s.answers.drop es.length := by
  cases a <;> simp [endOf, hf, afterFrames]

/-- The end of an operation adds no frame to those of its sequence. -/
theorem emits_endOf {s : State} (hh : s.hung = false) {plan : List (Link × List Byte)} (hp : PairedPlan plan)
    (hl : plan.length ≤ 16) (ans : Nat → Answer) {onSuccess : State → State}
    (hw : ∀ u, (onSuccess u).wire = u.wire) (ha : ∀ u, (onSuccess u).answers = u.answers)
    (hn : ∀ u, (onSuccess u).hung = u.hung) :
    Emits s (endOf (ending plan ans) s (presented plan ans) onSuccess) (presented plan ans) :=
  { emits_afterFrames hh hp hl ans with
    wire := endOf_wire hw
    answers := endOf_answers ha
    hung := by rw [endOf_hung hn]; exact (emits_afterFrames hh hp hl ans).hung }

/-! ### One instruction, one request, one step -/

/-- FRAME has 2 frames, SHOW 4, INIT 16, a wire command 2, and no other instruction has any. -/
theorem emits_of_effect {s t : State} {i : Instr} (hh : s.hung = false) (he : Effect s i t) : ∃ es, Emits s t es := by
  cases he with
  | notTaken => exact ⟨[], emits_nil rfl rfl hh⟩
  | quiet _ _ _ _ _ _ _ hq =>
    refine ⟨[], ?_⟩
    cases hq with
    | ok u v same =>
      obtain ⟨-, hn, -, -, ha, -, hw⟩ := same
      exact emits_nil hw ha (hn.trans hh)
    | invalidPixel => exact emits_nil rfl rfl hh
    | invalidArgument => exact emits_nil rfl rfl hh
  | frame =>
    exact ⟨_, emits_endOf hh (pairedPlan_frame ..) (by simp) _ (fun _ => rfl) (fun _ => rfl) fun _ => rfl⟩
  | shown m =>
    have h := emits_endOf (s := s.setPhys m) hh (pairedPlan_show Config.params m s.bri) (by simp) s.answerAt
      (onSuccess := id) (fun _ => rfl) (fun _ => rfl) fun _ => rfl
    exact ⟨_, emits_congr h rfl rfl⟩
  | init =>
    have h := emits_endOf (s := s.setInited false) hh (pairedPlan_init Config.params) (by simp) s.answerAt
      (onSuccess := fun u => u.setInited true) (fun _ => rfl) (fun _ => rfl) fun _ => rfl
    exact ⟨_, emits_congr h rfl rfl⟩
  | wire f _ _ hf => exact ⟨_, emits_afterFrames hh (.command hf .nil) (by simp) _⟩

/-- So with the next request; bytes that are no wire command are one command (R98, assumption 14). -/
theorem emits_of_advance {s t : State} (hh : s.hung = false) (ha : advance s = .next t) : ∃ es, Emits s t es := by
  obtain rfl | ⟨-, w, rest, e, -, -, -, rfl⟩ | ⟨-, bytes, rest, e, -, -, rfl⟩ | ⟨-, r, rest, i, -, -, -, hx⟩ :=
    advance_cases ha
  · exact ⟨[], emits_nil rfl rfl hh⟩
  · exact ⟨[], emits_nil rfl rfl hh⟩
  · rw [sendWire_eq]
    exact ⟨_, emits_congr (emits_afterFrames (s := s.setPending rest) hh (.command rfl .nil) (by simp) _) rfl rfl⟩
  · obtain ⟨es, hes⟩ := emits_of_effect (s := s.setPending rest) hh (effect_of_exec hx)
    exact ⟨es, emits_congr hes rfl rfl⟩

/-- A step that no reset cuts short: a reset on its own presents nothing, the next request its frames. -/
theorem emits_of_step {s t : State} (hh : s.hung = false) (hs : step s = .next t)
    (hr : ∀ k, s.resetLine ≠ .during k) : ∃ es, Emits s t es := by
  obtain ⟨-, rfl⟩ | ⟨-, ha⟩ | ⟨k, u, hk, -, -⟩ := step_cases hs
  · exact ⟨[], emits_nil (by simp) (by simp) (by simp)⟩
  · exact emits_of_advance hh ha
  · exact absurd hk (hr k)

/-- A step that reset cuts short is the operation it would have run, but for the frames after the first k. -/
theorem resetDuring_of_step {s t : State} {k : Nat} (hs : step s = .next t) (hr : s.resetLine = .during k) :
    ∃ u, advance (s.setResetLine .idle) = .next u ∧ t = s.resetDuring u k := by
  obtain ⟨u, hu⟩ := advance_answers_next (s.setResetLine .idle)
  exact ⟨u, hu, Host.Outcome.next.inj (hs.symm.trans (step_of_during hr hu))⟩

/-- Settles O59: by `emits_of_step`, and for a step that reset cuts short by splitting the frames of the operation it would
have run at the k-th. -/
theorem stepEmitsInLinkOrder : Obligations.StepEmitsInLinkOrder := by
  intro s t hs hh
  refine ⟨fun hr => ?_, fun k hr => ?_⟩
  · obtain ⟨es, h⟩ := emits_of_step hh hs hr
    exact ⟨es, h.wire, h.order, h.atMost, h.answers, h.hung⟩
  · obtain ⟨u, hu, rfl⟩ := resetDuring_of_step hs hr
    obtain ⟨es, h⟩ := emits_of_advance (s := s.setResetLine .idle) hh hu
    have hw : u.wire = s.wire ++ es := h.wire
    exact ⟨es.take k, es.drop k, State.resetDuring_wire hw k, by simpa using h.order, by simpa using h.atMost,
      List.length_take_le k es, State.resetDuring_answers hw k⟩

end Sys2Proof.Proofs
end

section
/-!
PROOFS. RENDER writes the offsets of the scanned indices and nothing else, and does not see what PHYS held before.
-/

namespace Sys2Proof.Proofs

open Sys2Proof.Machine Sys2Proof.Laws

/-- A byte after a render is what some lane of the scan writes to it, or 0. -/
theorem read_renderBuffer_cases (lut : Lut) (order : List PixelIndex) (g : Grid) (rot : Rotation) (fx fy : Bool)
    (a : PhysAddr) :
    (∃ i ∈ order, (a, (renderBuffer lut order g rot fx fy).read a) ∈
      laneWrites (lut (laneIndex rot fx fy i)) (g.get i)) ∨ (renderBuffer lut order g rot fx fy).read a = 0#8 := by
  rw [read_renderBuffer]
  obtain ⟨w, hw, rfl, he⟩ | ⟨-, he⟩ :=
    lastWrite_cases (order.flatMap fun i => laneWrites (lut (laneIndex rot fx fy i)) (g.get i)) a
  · obtain ⟨i, hi, hwi⟩ := List.mem_flatMap.1 hw
    exact .inl ⟨i, hi, he ▸ hwi⟩
  · exact .inr he

/-- The lane of a black pixel writes 0 only. -/
theorem snd_of_mem_laneWrites_black {e : LutEntry} {w : PhysAddr × Byte} (h : w ∈ laneWrites e ⟨0#6, 0#6, 0#6⟩) :
    w.2 = 0#8 := by
  simp only [laneWrites, List.mem_cons, List.not_mem_nil, or_false] at h
  obtain rfl | rfl | rfl := h <;> rfl

/-- A lane writes to the offsets of its entry only. -/
theorem fst_of_mem_laneWrites {e : LutEntry} {p : Pixel} {w : PhysAddr × Byte} (h : w ∈ laneWrites e p) :
    e.rOff = w.1 ∨ e.gOff = w.1 ∨ e.bOff = w.1 := by
  simp only [laneWrites, List.mem_cons, List.not_mem_nil, or_false] at h
  obtain rfl | rfl | rfl := h <;> simp

/-- Settles O39: by the lane that wrote the byte last, where there is one. -/
theorem renderWritesNothingElse : Obligations.RenderWritesNothingElse := by
  intro lut order g rot fx fy
  refine ⟨fun hg a => ?_, fun a ha => ?_⟩
  · obtain ⟨i, -, hw⟩ | h := read_renderBuffer_cases lut order g rot fx fy a
    · rw [hg i] at hw
      exact snd_of_mem_laneWrites_black hw
    · exact h
  · obtain ⟨i, hi, hw⟩ | h := read_renderBuffer_cases lut order g rot fx fy a
    · obtain ⟨hr, hgr, hb⟩ := ha i hi
      exact absurd (fst_of_mem_laneWrites hw) (by simp [hr, hgr, hb])
    · exact h

/-- RENDER on a ready core (R167). -/
theorem exec_render_of_ready {s : State} (hi : s.inited = true) (hh : s.hung = false) :
    exec .render s = .next (respond 0#32 (renderWith Config.params.lut s)) := by
  rw [exec_render, hostOperation_of_ready hi hh]

/-- Settles O40: RENDER builds its buffer from a zeroed one (`renderWith_setPhys`), and changes nothing it reads. -/
theorem renderIgnoresTheOldBuffer : Obligations.RenderIgnoresTheOldBuffer := by
  intro s m hi hh
  refine ⟨_, _, exec_render_of_ready hi hh, ?_, exec_render_of_ready (by simpa) (by simpa), by simp⟩
  have hm := exec_render_of_ready (s := s.setPhys m) hi hh
  rwa [renderWith_setPhys] at hm

end Sys2Proof.Proofs
end

section
/-!
PROOFS. FRAME and SHOW with every frame taken, from the end of an operation whose frames are all answered success.
-/

namespace Sys2Proof.Proofs

open Sys2Proof.Machine Sys2Proof.Laws

/-- An operation whose frames are all taken presents each of them, uses up an answer for each, and answers OK. -/
theorem endOf_of_success {plan : List (Link × List Byte)} {ans : Nat → Answer}
    (h : ∀ j < plan.length, ans j = .success) (s : State) :
    endOf (ending plan ans) s (presented plan ans) id = { s with
      answers := s.answers.drop plan.length
      wire := s.wire ++ plan.map fun f => ⟨f.1, f.2, .success⟩
      responses := s.responses ++ [0x0000000000#40] } := by
  rw [ending_of_success h, presented_of_success h]
  simp [endOf, afterFrames, respond, State.addResponse]

/-- Settles O42: the plan of FRAME has two frames. -/
theorem frameSendsCommandAndPayload : Obligations.FrameSendsCommandAndPayload := by
  intro cmd payload s hi hh hlen h0 h1
  have hans : ∀ j < (framePlan cmd payload s.phys).length, s.answerAt j = .success := by
    rw [framePlan_length]
    intro j hj
    interval_cases j
    · exact h0
    · exact h1
  rw [exec_frame, hostOperation_of_ready hi hh, frameAndTransfer_eq hlen, endOf_of_success hans, framePlan_length]

/-- Settles O44: the plan of SHOW has four frames, and is presented from the state RENDER leaves. -/
theorem showRendersThenSends : Obligations.ShowRendersThenSends := by
  intro s hi hh hans
  have hend (m : Memory) := endOf_of_success (plan := showPlan Config.params m s.bri) hans (s.setPhys m)
  refine ⟨_, _, ?_, exec_render_of_ready hi hh, rfl⟩
  rw [exec_showDisplay, hostOperation_of_ready hi hh, showWith_eq _ _ rfl, hend, showPlan_length]
  simp [renderWith_eq, State.setPhys]

end Sys2Proof.Proofs
end

section
/-!
PROOFS. The queries: each answers one word that does not depend on the responses given before it.
-/

namespace Sys2Proof.Proofs

open Sys2Proof.Machine Sys2Proof.Laws

/-- In state s, whatever responses were given, the instruction adds one and the same response and changes nothing else. -/
def AnswersAlike (i : Instr) (s : State) : Prop :=
  ∃ w, ∀ rs, exec i { s with responses := rs } = .next { s with responses := rs ++ [w] }

theorem answersAlike_of_hostOperation {i : Instr} {s : State} {run : State → State} (hi : s.inited = true)
    (hh : s.hung = false) (he : ∀ u, exec i u = hostOperation u run)
    (hr : ∃ w, ∀ rs, run { s with responses := rs } = { s with responses := rs ++ [w] }) : AnswersAlike i s := by
  obtain ⟨w, hw⟩ := hr
  exact ⟨w, fun rs => by rw [he, hostOperation_of_ready (s := { s with responses := rs }) hi hh, hw]⟩

/-- The operation's data, or its error, as one response word. -/
theorem respondOr_adds_response {α : Type} (r : Except ErrorKind α) (data : α → BitVec 32) (s : State) :
    ∃ w, ∀ rs, respondOr r data { s with responses := rs } = { s with responses := rs ++ [w] } := by
  rcases r with e | v
  · exact ⟨hrw e.status 0#32, fun _ => rfl⟩
  · exact ⟨hrw 0 (data v), fun _ => rfl⟩

/-- What answers alike answers twice the same. -/
theorem execAll_twice_of_answersAlike {i : Instr} {s : State} (h : AnswersAlike i s) :
    ∃ w, exec i s = .next { s with responses := s.responses ++ [w] } ∧
      execAll [i, i] s = .next { s with responses := s.responses ++ [w, w] } := by
  obtain ⟨w, hw⟩ := h
  have h1 : exec i s = .next { s with responses := s.responses ++ [w] } := hw s.responses
  refine ⟨w, h1, ?_⟩
  simp only [execAll, h1, hw, List.append_assoc, List.cons_append, List.nil_append]

/-- Settles O52: each of the six reads what it answers from the operands and from fields other than the responses. -/
theorem queriesChangeNothing : Obligations.QueriesChangeNothing := by
  intro x y c s hi hh i hmem
  apply execAll_twice_of_answersAlike
  simp only [List.mem_cons, List.not_mem_nil, or_false] at hmem
  obtain rfl | rfl | rfl | rfl | rfl | rfl := hmem
  · exact answersAlike_of_hostOperation hi hh (exec_getPixel x y)
      (respondOr_adds_response _ (fun i => pixelData (s.pixel i)) s)
  · exact answersAlike_of_hostOperation hi hh exec_getRotation ⟨hrw 0 (rotationData s.rot), fun _ => rfl⟩
  · exact answersAlike_of_hostOperation hi hh exec_getBrightness ⟨hrw 0 (brightnessData s.bri), fun _ => rfl⟩
  · exact answersAlike_of_hostOperation hi hh (exec_getOffset x y) (respondOr_adds_response _ _ s)
  · exact answersAlike_of_hostOperation hi hh (exec_resolve x y)
      (respondOr_adds_response (resolvePosition (coordinate x) (coordinate y) s.rot s.flipX s.flipY) _ s)
  · exact answersAlike_of_hostOperation hi hh (exec_lookup c) (respondOr_adds_response _ _ s)

end Sys2Proof.Proofs
end

section
/-!
PROOFS. A step that takes the oldest request runs the instruction it decodes to.
-/

namespace Sys2Proof.Proofs

open Sys2Proof.Machine Sys2Proof.Laws

/-- Settles O6: in UNINIT too the request is accepted where it is INIT or a wire command (`accepts_of_ok`). -/
theorem stepRunsTheDecodedInstruction : Obligations.StepRunsTheDecodedInstruction :=
  fun _ _ _ _ hr hh hp hd ha => step_of_ok hr hh hp (accepts_of_ok hd ha) hd

end Sys2Proof.Proofs
end

section
/-!
PROOFS. The encoding: decoder and encoder undo each other, and the decoder takes exactly the words that R99 does not call
illegal. A word is legal by the two things the decoder looks at: that its code is an operation's, and what that operation's
format asks of the other fields.
-/

namespace Sys2Proof.Proofs

open Sys2Proof.Machine Sys2Proof.Laws

/-! ### Decoding and encoding -/

/-- Settles O1: the round trip of each instruction (Laws/PerInstr). -/
theorem decodeOfEncodeIsTheInstruction : Obligations.DecodeOfEncodeIsTheInstruction := by
  intro i
  cases i with
  | setPixel x y r g b => exact RoundTrip.setPixel x y r g b
  | getPixel x y => exact RoundTrip.getPixel x y
  | clearPixel x y => exact RoundTrip.clearPixel x y
  | setAll r g b => exact RoundTrip.setAll r g b
  | clear => exact RoundTrip.clear
  | getOffset x y => exact RoundTrip.getOffset x y
  | setRotation deg => exact RoundTrip.setRotation deg
  | getRotation => exact RoundTrip.getRotation
  | flipX => exact RoundTrip.flipX
  | flipY => exact RoundTrip.flipY
  | setBrightness code => exact RoundTrip.setBrightness code
  | getBrightness => exact RoundTrip.getBrightness
  | resolve x y => exact RoundTrip.resolve x y
  | lookup c => exact RoundTrip.lookup c
  | render => exact RoundTrip.render
  | frame cmd payload => exact RoundTrip.frame cmd payload
  | showDisplay => exact RoundTrip.showDisplay
  | init => exact RoundTrip.init
  | softReset => exact RoundTrip.softReset
  | globalBrightness d => exact RoundTrip.globalBrightness d
  | comPinCtrl c => exact RoundTrip.comPinCtrl c
  | rowPinCtrl a b c d => exact RoundTrip.rowPinCtrl a b c d
  | writeDisplay a => exact RoundTrip.writeDisplay a
  | readDisplay => exact RoundTrip.readDisplay
  | systemCtrl d => exact RoundTrip.systemCtrl d
  | scrollCtrl d => exact RoundTrip.scrollCtrl d

/-- Settles O2: by what a decoded word was, and what decoded wire bytes were (Laws/Encoding). -/
theorem encodeOfDecodeIsTheRequest : Obligations.EncodeOfDecodeIsTheRequest := by
  intro r i h
  cases r with
  | word w => exact encode_of_decodeWord h
  | wire bytes => exact encode_of_decodeWire h

/-- Settles O3: the decoder, run on each of the written-out words. -/
theorem wordsOfTheSpecDecode : Obligations.WordsOfTheSpecDecode :=
  ⟨rfl, rfl, rfl, rfl, rfl, rfl, rfl, rfl, rfl, rfl⟩

/-! ### Legal words -/

/-- What R99 asks of format F beyond its must-be-zero bits, field by field: HLEN is 1 to 5, no header byte follows the first
HLEN, and LEN is 0 where PAY is. -/
def LegalFrameFields (w : Hcw) : Prop :=
  1 ≤ (field w 53 3).toNat ∧ (field w 53 3).toNat ≤ 5 ∧
    (∀ b ∈ (headerBytes w).drop (field w 53 3).toNat, b = 0#8) ∧
    ((field w 52 1).toNat = 0 → field w 40 8 = 0#8)

theorem field_eq_zero_iff (w : Hcw) (lo n : Nat) : field w lo n = 0#n ↔ w.toNat / 2 ^ lo % 2 ^ n = 0 := by
  rw [← BitVec.toNat_inj, field_toNat, BitVec.toNat_ofNat, Nat.zero_mod]

/-- The header fields that R99 asks to be 0 are the header bytes from the HLEN-th on. -/
theorem forall_headerBytes_drop (w : Hcw) (k : Nat) :
    (∀ b ∈ (headerBytes w).drop k, b = 0#8) ↔ ∀ j, k ≤ j → j < 5 → w.toNat / 2 ^ (8 * (4 - j)) % 2 ^ 8 = 0 := by
  have hb : headerBytes w = (List.range 5).map fun j => field w (8 * (4 - j)) 8 := rfl
  simp only [← field_eq_zero_iff, hb, List.forall_mem_iff_forall_getElem, List.length_drop, List.length_map,
    List.length_range, List.getElem_drop, List.getElem_map, List.getElem_range]
  refine ⟨fun h j hk hj => ?_, fun h j hj => h (k + j) (by omega) (by omega)⟩
  rw [← Nat.add_sub_cancel' hk]
  exact h (j - k) (by omega)

/-- Format F of R99 in the fields the decoder reads. -/
theorem legalFrameWord_iff (w : Hcw) :
    LegalFrameWord w.toNat ↔ w.toNat / 2 ^ 48 % 2 ^ 4 = 0 ∧ LegalFrameFields w := by
  rw [LegalFrameWord, LegalFrameFields, forall_headerBytes_drop, field_eq_zero_iff, field_toNat, field_toNat,
    Nat.pow_one]

/-- The decoder takes a format F word exactly where the conditions of R99 hold. -/
theorem decodeFrame_ok_iff (w : Hcw) : (∃ i, decodeFrame w = .ok i) ↔ LegalFrameFields w := by
  have hz : ((headerBytes w).drop (field w 53 3).toNat).any (fun b => b != 0#8) = true ↔
      ¬ ∀ b ∈ (headerBytes w).drop (field w 53 3).toNat, b = 0#8 := by simp
  unfold decodeFrame LegalFrameFields
  dsimp only
  split
  · next hlen => exact iff_of_false (by simp) fun ⟨h1, h5, _⟩ => by omega
  next hlen =>
  split
  · next stray => exact iff_of_false (by simp) fun ⟨_, _, hs, _⟩ => hz.1 stray hs
  next clean =>
  have hs := not_not.1 (mt hz.2 clean)
  split
  · next pay =>
    split
    · next len => exact iff_of_true ⟨_, rfl⟩ ⟨by omega, by omega, hs, fun _ => len⟩
    · next len => exact iff_of_false (by simp) fun ⟨_, _, _, hl⟩ => len (hl pay)
  · next pay => exact iff_of_true ⟨_, rfl⟩ ⟨by omega, by omega, hs, fun h => absurd h pay⟩

/-- A word with an operation's code is legal where the must-be-zero fields of the operation's format are 0, and, for FRAME,
the further conditions of R99 hold. -/
theorem legalWord_iff_of_code {w : Hcw} {op : HostOp} (hc : w.toNat / 2 ^ 56 = op.code) :
    LegalWord w ↔ (∀ f ∈ op.reserved, w.toNat / 2 ^ f.1 % 2 ^ f.2 = 0) ∧ (op = .frame → LegalFrameFields w) := by
  unfold LegalWord
  dsimp only
  rw [hc]
  cases op <;> simp [HostOp.code, HostOp.reserved, legalFrameWord_iff]

/-- A legal word has an operation's code (R86). -/
theorem code_of_legalWord {w : Hcw} (h : LegalWord w) : ∃ op : HostOp, w.toNat / 2 ^ 56 = op.code := by
  unfold LegalWord at h
  dsimp only at h
  split at h
  case h_19 => exact h.elim
  all_goals
    rename_i hc
    exact ⟨_, (code_of_hostOp_ofCode (congrArg HostOp.ofCode hc)).symm⟩

/-- The operands of an operation are taken in every word of its format, but for FRAME's conditions of R99. -/
theorem decodeOperands_ok_iff (op : HostOp) (w : Hcw) :
    (∃ i, decodeOperands op w = .ok i) ↔ (op = .frame → LegalFrameFields w) := by
  rw [← decodeFrame_ok_iff]
  cases op <;> simp [decodeOperands]

/-- Settles O4: decoder and R99 both go by the operation's code, its must-be-zero fields, and FRAME's further fields. -/
theorem onlyLegalWordsAreDecoded : Obligations.OnlyLegalWordsAreDecoded := by
  intro w
  constructor
  · rintro ⟨i, hd⟩
    obtain ⟨op, hc, hr, ho⟩ := decodeWord_inv hd
    exact (legalWord_iff_of_code hc).2 ⟨hr, (decodeOperands_ok_iff op w).1 ⟨i, ho⟩⟩
  · intro hl
    obtain ⟨op, hc⟩ := code_of_legalWord hl
    obtain ⟨hr, hf⟩ := (legalWord_iff_of_code hc).1 hl
    rw [decodeWord_of_code hc hr]
    exact (decodeOperands_ok_iff op w).2 hf

/-! ### Illegal words -/

/-- The decoder rejects an illegal word. -/
theorem decodeWord_error_of_not_legalWord {w : Hcw} (h : ¬ LegalWord w) : ∃ e, decodeWord w = .error e := by
  rcases hd : decodeWord w with e | i
  · exact ⟨e, rfl⟩
  · exact absurd ((onlyLegalWordsAreDecoded w).1 ⟨i, hd⟩) h

/-- Settles O5: an illegal word goes to the answer of R99, and FRAME's legal word to `frameAndTransfer_of_long`. -/
theorem illegalWordsAreAnsweredInvalidArgument : Obligations.IllegalWordsAreAnsweredInvalidArgument := by
  refine ⟨fun s w rest hi hh hr hp hw => ?_, fun s cmd len hi hh h1 h5 hlen => ⟨⟨_, rfl, ?_⟩, ?_⟩⟩
  · obtain ⟨e, he⟩ := decodeWord_error_of_not_legalWord hw
    exact step_of_error hr hh hp (by simp [State.accepts, hi]) (r := .word w) he
  · exact (onlyLegalWordsAreDecoded _).1 ⟨_, decodeWord_packF (some len) h1 h5⟩
  · rw [exec_frame, hostOperation_of_ready hi hh, frameAndTransfer_of_long hlen]
    rfl

end Sys2Proof.Proofs
end

section
/-!
PROOFS. That every step ends in a next state; and what the host operations answer and emit, by the ways an instruction can go
(Laws/Effects).
-/

namespace Sys2Proof.Proofs

open Sys2Proof.Machine Sys2Proof.Laws

/-! ### A step -/

/-- Settles O10: a reset on its own is a step, and the next request, cut short or not, ends in a next state. -/
theorem noStepStopsTheMachine : Obligations.NoStepStopsTheMachine := by
  intro s
  rcases hr : s.resetLine with _ | _ | k
  · obtain ⟨t, ht⟩ := advance_answers_next s
    exact ⟨t, (step_of_idle hr).trans ht⟩
  · exact ⟨s.applyReset, step_of_reset hr⟩
  · obtain ⟨u, hu⟩ := advance_answers_next (s.setResetLine .idle)
    exact ⟨s.resetDuring u k, step_of_during hr hu⟩

/-! ### Response words -/

/-- From s to t exactly one legal response word is added where the operation has ended, and none where it hangs. -/
def AnswersOnce (s t : State) : Prop :=
  (t.hung = false → ∃ w, t.responses = s.responses ++ [w] ∧ LegalResponse w) ∧
    (t.hung = true → t.responses = s.responses)

theorem answersOnce_addResponse {s u : State} {w : Hrw} (hh : u.hung = false) (hr : u.responses = s.responses)
    (hw : LegalResponse w) : AnswersOnce s (u.addResponse w) :=
  ⟨fun _ => ⟨w, by simp [hr], hw⟩, fun h => by simp [hh] at h⟩

theorem answersOnce_respond {s u : State} (hh : u.hung = false) (hr : u.responses = s.responses) (v : BitVec 32) :
    AnswersOnce s (respond v u) :=
  answersOnce_addResponse hh hr (legalResponse_ok v)

theorem answersOnce_raise {s u : State} (hh : u.hung = false) (hr : u.responses = s.responses) (e : ErrorKind) :
    AnswersOnce s (raise e u) :=
  answersOnce_addResponse hh hr (legalResponse_error e)

/-- An operation that transfers answers OK or TransferError, and nothing where a frame is never answered. -/
theorem answersOnce_endOf {s u : State} (hh : u.hung = false) (hr : u.responses = s.responses) (a : Answer)
    (es : List Emission) {onSuccess : State → State} (hfh : ∀ v, (onSuccess v).hung = v.hung)
    (hfr : ∀ v, (onSuccess v).responses = v.responses) : AnswersOnce s (endOf a u es onSuccess) := by
  cases a with
  | success => exact answersOnce_respond (by simp [hfh, afterFrames, hh]) (by simp [hfr, afterFrames, hr]) 0#32
  | failure => exact answersOnce_raise (u := afterFrames u es .failure) (by simp [afterFrames, hh]) hr .transferError
  | never => exact ⟨fun h => by simp [endOf, afterFrames] at h, fun _ => hr⟩

/-- Settles O56, by the ways a host operation that is taken can go. -/
theorem everyHostOperationAnswersOnce : Obligations.EveryHostOperationAnswersOnce := by
  intro i s t hi hh hw hx
  show AnswersOnce s t
  cases effect_of_exec hx with
  | notTaken hn =>
    obtain hn | ⟨hu, -, hne⟩ := hn
    · exact absurd hn (by simp [hh])
    · exact absurd hi (by simp [hu, hne])
  | quiet _ _ _ _ _ _ _ hq =>
    cases hq with
    | ok u v same =>
      obtain ⟨-, hn, -, -, -, hr, -⟩ := same
      exact answersOnce_respond (hn.trans hh) hr v
    | invalidPixel => exact answersOnce_raise hh rfl .invalidPixel
    | invalidArgument => exact answersOnce_raise hh rfl .invalidArgument
  | frame => exact answersOnce_endOf hh rfl _ _ (fun _ => rfl) fun _ => rfl
  | shown m => exact answersOnce_endOf (u := s.setPhys m) hh rfl _ _ (fun _ => rfl) fun _ => rfl
  | init => exact answersOnce_endOf (u := s.setInited false) hh rfl _ _ (fun _ => rfl) fun _ => rfl
  | wire _ _ hc => exact absurd hc (by simp [hw])

/-! ### The commands of SHOW and INIT -/

/-- The frame begins with one of the seven wire opcodes the core sends of its own accord (R96, R202). -/
def BeginsWithKnownOpcode (bytes : List Byte) : Prop :=
  ∃ op data, bytes = op :: data ∧ op ∈ [0xCC#8, 0x37#8, 0x20#8, 0x35#8, 0x80#8, 0x41#8, 0x42#8]

theorem beginsWithKnownOpcode_onBothLinks {op : Byte} {data : List Byte} {f : Link × List Byte}
    (hop : op ∈ [0xCC#8, 0x37#8, 0x20#8, 0x35#8, 0x80#8, 0x41#8, 0x42#8]) (h : f ∈ onBothLinks (op :: data)) :
    BeginsWithKnownOpcode f.2 := by
  simp only [onBothLinks, List.mem_cons, List.not_mem_nil, or_false] at h
  obtain rfl | rfl := h <;> exact ⟨op, data, rfl, hop⟩

theorem beginsWithKnownOpcode_show {p : Params} {m : Memory} {bri : Brightness} {f : Link × List Byte}
    (h : f ∈ showPlan p m bri) : BeginsWithKnownOpcode f.2 := by
  simp only [showPlan, List.mem_append, List.mem_cons, List.not_mem_nil, or_false] at h
  obtain (rfl | rfl) | h := h
  · exact ⟨_, _, rfl, by decide⟩
  · exact ⟨_, _, rfl, by decide⟩
  · exact beginsWithKnownOpcode_onBothLinks (by decide) h

theorem beginsWithKnownOpcode_init {p : Params} {f : Link × List Byte} (h : f ∈ initPlan p) :
    BeginsWithKnownOpcode f.2 := by
  simp only [initPlan, List.mem_append] at h
  obtain ((((((h | h) | h) | h) | h) | h) | h) | h := h <;> exact beginsWithKnownOpcode_onBothLinks (by decide) h

/-- Settles O60, by the ways a host operation other than FRAME can go: what SHOW and INIT present is from their plans, and
nothing else presents anything. -/
theorem onlyKnownCommandsAreEmitted : Obligations.OnlyKnownCommandsAreEmitted := by
  intro i s t hx hw hf
  have silent (h : t.wire = s.wire) : ∃ es, t.wire = s.wire ++ es ∧ (es ≠ [] → i = .showDisplay ∨ i = .init) ∧
      ∀ e ∈ es, BeginsWithKnownOpcode e.bytes := ⟨[], by simp [h]⟩
  cases effect_of_exec hx with
  | notTaken => exact silent rfl
  | quiet _ _ _ _ _ _ _ hq =>
    cases hq with
    | ok u v same =>
      obtain ⟨-, -, -, -, -, -, hwire⟩ := same
      exact silent hwire
    | invalidPixel => exact silent rfl
    | invalidArgument => exact silent rfl
  | frame cmd payload _ _ he => exact absurd he (hf cmd payload)
  | shown m _ _ he =>
    exact ⟨_, endOf_wire fun _ => rfl, fun _ => .inl he, fun e h => beginsWithKnownOpcode_show (mem_presented h)⟩
  | init _ he =>
    exact ⟨_, endOf_wire fun _ => rfl, fun _ => .inr he, fun e h => beginsWithKnownOpcode_init (mem_presented h)⟩
  | wire _ _ hc => exact absurd hc (by simp [hw])

end Sys2Proof.Proofs
end

section
/-!
PROOFS. CLEAR_PIXEL, and the instructions that R103 expands: SET_ALL as SET_PIXEL at every position, SHOW as RENDER and two
FRAMEs. The instructions of a list are run one after the other by `execAll_append`.
-/

namespace Sys2Proof.Proofs

open Sys2Proof.Machine Sys2Proof.Laws

/-! ### Stores to one pixel -/

/-- A store to a position in range changes the one entry of G, and answers OK (R162, R164). -/
theorem storePixel_effect {x y : Byte} (h : InRange x.toInt y.toInt) (p : Pixel) (s : State) :
    storePixel x y p s =
        { s with grid := (storePixel x y p s).grid, responses := s.responses ++ [0x0000000000#40] } ∧
      ∀ i : PixelIndex, (storePixel x y p s).pixel i =
        if (i.val : Int) = x.toInt * 7 + y.toInt then p else s.pixel i := by
  obtain ⟨j, hj, -, he⟩ := storePixel_of_inRange h p s
  rw [he]
  refine ⟨rfl, fun i => ?_⟩
  have hij : (i.val : Int) = x.toInt * 7 + y.toInt ↔ i = j := by rw [← hj, Int.natCast_inj, Fin.val_inj]
  simp only [hij]
  exact State.pixel_setPixelAt s j i p

/-- The colour (0, 0, 0) is stored as black (R103). -/
@[simp] theorem storedColour_zero : storedColour 0#8 0#8 0#8 = Pixel.black := rfl

/-- Settles O20: CLEAR_PIXEL is a store of black, and that is SET_PIXEL's store of the colour (0, 0, 0). -/
theorem clearPixelStoresBlack : Obligations.ClearPixelStoresBlack := by
  intro x y s hi hh
  have hx : exec (.clearPixel x y) s = .next (storePixel x y Pixel.black s) := by
    rw [exec_clearPixel, hostOperation_of_ready hi hh]
  refine ⟨fun hr => ?_, fun hr => ?_, ?_, RoundTrip.clearPixel x y rfl⟩
  · obtain ⟨hs, hp⟩ := storePixel_effect hr Pixel.black s
    exact ⟨_, hx, hs, hp, fun a => by rw [hs]⟩
  · rw [hx, storePixel_of_not_inRange hr]
    rfl
  · rw [exec_clearPixel, exec_setPixel, storedColour_zero]

/-! ### Lists of instructions -/

/-- An instruction that answers a next state, and then others. -/
theorem execAll_cons {i : Instr} {s t : State} (h : exec i s = .next t) (is : List Instr) :
    execAll (i :: is) s = execAll is t := by
  rw [execAll, h]

/-- A list of instructions, and then another. -/
theorem execAll_append {is : List Instr} {s t : State} (h : execAll is s = .next t) (js : List Instr) :
    execAll (is ++ js) s = execAll js t := by
  induction is generalizing s with
  | nil => rw [List.nil_append, Host.Outcome.next.inj h]
  | cons i is ih =>
    obtain ⟨u, hu⟩ := exec_answers_next i s
    rw [execAll_cons hu] at h
    rw [List.cons_append, execAll_cons hu, ih h]

/-- One more instruction at the end of a list. -/
theorem execAll_concat {is : List Instr} {i : Instr} {s t u : State} (h : execAll is s = .next t)
    (hx : exec i t = .next u) : execAll (is ++ [i]) s = .next u :=
  (execAll_append h [i]).trans (execAll_cons hx [])

/-! ### SET_ALL -/

/-- SET_PIXEL at the first n positions, in the order of the storage indices: at every position for n = 119 (R103, R160). -/
def setPixelEverywhere (n : Nat) (r g b : Byte) : List Instr :=
  (List.range n).map fun i => .setPixel (BitVec.ofNat 8 (i / 7)) (BitVec.ofNat 8 (i % 7)) r g b

/-- The operands for a storage index are its position (R160). -/
theorem position_of_storage {n : Nat} (h : n < 119) :
    InRange (BitVec.ofNat 8 (n / 7)).toInt (BitVec.ofNat 8 (n % 7)).toInt ∧
      (BitVec.ofNat 8 (n / 7)).toInt * 7 + (BitVec.ofNat 8 (n % 7)).toInt = n := by
  have small {k : Nat} (hk : k < 17) : (BitVec.ofNat 8 k).toInt = k := by
    rw [BitVec.toInt_eq_toNat_of_lt] <;> rw [BitVec.toNat_ofNat, Nat.mod_eq_of_lt] <;> omega
  rw [small (k := n / 7) (by omega), small (k := n % 7) (by omega)]
  refine ⟨⟨?_, ?_, ?_, ?_⟩, ?_⟩ <;> omega

/-- The first n stores of SET_PIXEL at every position: the first n entries of G hold the colour, and n responses OK are
given. -/
theorem execAll_setPixelEverywhere (r g b : Byte) {s : State} (hi : s.inited = true) (hh : s.hung = false) {n : Nat}
    (hn : n ≤ 119) :
    ∃ u, execAll (setPixelEverywhere n r g b) s = .next u ∧
      u = { s with grid := u.grid, responses := s.responses ++ List.replicate n 0x0000000000#40 } ∧
      ∀ i : PixelIndex, u.pixel i = if i.val < n then storedColour r g b else s.pixel i := by
  induction n with
  | zero => exact ⟨s, rfl, by simp, by simp⟩
  | succ n ih =>
    obtain ⟨u, hu, hs, hp⟩ := ih (by omega)
    obtain ⟨hr, hxy⟩ := position_of_storage (show n < 119 by omega)
    obtain ⟨hs', hp'⟩ := storePixel_effect hr (storedColour r g b) u
    have hi' : u.inited = true := by rw [hs]; exact hi
    have hh' : u.hung = false := by rw [hs]; exact hh
    have hu' : execAll (setPixelEverywhere (n + 1) r g b) s =
        .next (storePixel (BitVec.ofNat 8 (n / 7)) (BitVec.ofNat 8 (n % 7)) (storedColour r g b) u) := by
      rw [setPixelEverywhere, List.range_succ, List.map_append]
      exact execAll_concat hu (by rw [exec_setPixel, hostOperation_of_ready hi' hh'])
    refine ⟨_, hu', ?_, fun i => ?_⟩
    · rw [hs', hs, List.replicate_succ', List.append_assoc]
    · rw [hp', hp, hxy]
      by_cases hin : i.val = n
      · rw [if_pos (by omega), if_pos (by omega)]
      · have hlt : i.val < n + 1 ↔ i.val < n := by omega
        simp only [Int.natCast_inj, hin, hlt, if_false]

/-- Settles O25: after all 119 stores every entry of G holds the colour, as after SET_ALL. -/
theorem setAllIsSetPixelEverywhere : Obligations.SetAllIsSetPixelEverywhere := by
  intro r g b s hi hh
  obtain ⟨u, hu, hs, hp⟩ := execAll_setPixelEverywhere r g b hi hh (Nat.le_refl 119)
  have hg : u.grid = (s.fillGrid (storedColour r g b)).grid := by
    refine grid_ext fun i => ?_
    exact (hp i).trans (by simp [i.isLt])
  refine ⟨_, u, by rw [exec_setAll, hostOperation_of_ready hi hh], hu, ?_⟩
  rw [hs, hg]
  rfl

/-! ### SHOW -/

/-- The plan of SHOW is the plans of its two FRAMEs (R103). -/
theorem showPlan_eq_framePlans (p : Params) (m m' : Memory) (bri : Brightness) :
    showPlan p m bri = framePlan [0x80#8, p.wdAddr] (some 224#8) m ++ framePlan [0x37#8, bri.setWidth 8] none m' := rfl

/-- After some frames the answers have moved on by their number. -/
theorem answerAt_of_frames {s t : State} {es : List Emission} (hw : t.wire = s.wire ++ es)
    (ha : t.answers = s.answers.drop es.length) (k : Nat) : t.answerAt k = s.answerAt (es.length + k) := by
  simp [State.answerAt, hw, ha, Nat.add_assoc]

/-- Two FRAMEs with every frame taken. -/
theorem execAll_two_frames {cmd cmd' : List Byte} {payload payload' : Option Byte} {s : State} (hi : s.inited = true)
    (hh : s.hung = false) (hl : ∀ len, payload = some len → len.toNat ≤ 224)
    (hl' : ∀ len, payload' = some len → len.toNat ≤ 224) (hans : ∀ k < 4, s.answerAt k = .success) :
    execAll [.frame cmd payload, .frame cmd' payload'] s = .next { s with
      answers := s.answers.drop 4
      wire := s.wire ++
        (framePlan cmd payload s.phys ++ framePlan cmd' payload' s.phys).map fun f => ⟨f.1, f.2, .success⟩
      responses := s.responses ++ List.replicate 2 0x0000000000#40 } := by
  have hf := frameSendsCommandAndPayload cmd payload s hi hh hl (hans 0 (by decide)) (hans 1 (by decide))
  rw [execAll_cons hf]
  refine (execAll_cons (frameSendsCommandAndPayload cmd' payload' _ ?_ ?_ hl' ?_ ?_) []).trans ?_
  · exact hi
  · exact hh
  · exact (answerAt_of_frames (s := s) rfl (by simp) 0).trans (by simp [hans])
  · exact (answerAt_of_frames (s := s) rfl (by simp) 1).trans (by simp [hans])
  · simp [execAll]

/-- Settles O46: O44 for SHOW and for the state RENDER leaves, from which the two FRAMEs start. -/
theorem showIsRenderAndTwoFrames : Obligations.ShowIsRenderAndTwoFrames := by
  intro s hi hh hans
  obtain ⟨t, r, hshow, hrender, ht⟩ := showRendersThenSends s hi hh hans
  have hr : r = respond 0#32 (renderWith Config.params.lut s) :=
    Host.Outcome.next.inj (hrender.symm.trans (exec_render_of_ready hi hh))
  have hra : r.answerAt = s.answerAt := State.answerAt_congr (by simp [hr]) (by simp [hr])
  refine ⟨t, _, hshow, (execAll_cons hrender _).trans (execAll_two_frames ?_ ?_ ?_ ?_ ?_), ?_⟩
  · simp [hr, hi]
  · simp [hr, hh]
  · simp
  · simp
  · rwa [hra]
  · rw [ht, ← showPlan_eq_framePlans]
    simp [hr]

end Sys2Proof.Proofs
end

section
/-!
PROOFS. The wire commands without payload, and other bytes at the framer's command input: each is one transfer of the same
frame on both links.
-/

namespace Sys2Proof.Proofs

open Sys2Proof.Machine Sys2Proof.Laws

/-- What is left after the same bytes were presented on link 0 and, if they were taken there, on link 1 (R196, R250). -/
theorem sendWire_onBothLinks (bytes : List Byte) {s : State} (hh : s.hung = false) :
    sendWire (frame bytes none) s = { s with
      answers := s.answers.drop (presented (onBothLinks bytes) s.answerAt).length
      wire := s.wire ++ presented (onBothLinks bytes) s.answerAt
      hung := decide (ending (onBothLinks bytes) s.answerAt = .never) } := by
  have hl : linkFrames [frame bytes none] = onBothLinks bytes := rfl
  have hn (a : Answer) : (a == .never) = decide (a = .never) := by cases a <;> rfl
  rw [sendWire_eq, hl, afterFrames, hh, Bool.false_or, hn]

/-- The instruction sends the bytes on both links, and nothing else. -/
def SendsOnBothLinks (i : Instr) (bytes : List Byte) : Prop :=
  (∀ s, exec i s = anyTimeOperation s (sendWire (frame bytes none))) ∧ decode (.wire bytes) = .ok i

/-- The wire commands without payload and their bytes (R197 to R200, R202 to R204). -/
theorem sendsOnBothLinks_of_mem {a b c d : Byte} {p : Instr × List Byte}
    (h : p ∈ [(Instr.softReset, [0xCC#8]), (Instr.globalBrightness a, [0x37#8, a]), (Instr.comPinCtrl a, [0x41#8, a]),
      (Instr.rowPinCtrl a b c d, [0x42#8, a, b, c, d]), (Instr.readDisplay, [0x81#8]),
      (Instr.systemCtrl a, [0x35#8, a]), (Instr.scrollCtrl a, [0x20#8, a])]) : SendsOnBothLinks p.1 p.2 := by
  simp only [List.mem_cons, List.not_mem_nil, or_false] at h
  obtain rfl | rfl | rfl | rfl | rfl | rfl | rfl := h
  · exact ⟨exec_softReset, rfl⟩
  · exact ⟨exec_globalBrightness a, rfl⟩
  · exact ⟨exec_comPinCtrl a, rfl⟩
  · exact ⟨exec_rowPinCtrl a b c d, rfl⟩
  · exact ⟨exec_readDisplay, rfl⟩
  · exact ⟨exec_systemCtrl a, rfl⟩
  · exact ⟨exec_scrollCtrl a, rfl⟩

/-- Settles O50: a wire command and other bytes alike are one transfer, `sendWire_onBothLinks`. -/
theorem wireCommandsAreSentOnBothLinks : Obligations.WireCommandsAreSentOnBothLinks := by
  refine ⟨fun a b c d s hh p hp => ?_, fun s bytes rest e hh hr hp hd => ?_⟩
  · obtain ⟨hx, hd⟩ := sendsOnBothLinks_of_mem hp
    exact ⟨by rw [hx, anyTimeOperation_of_not_hung hh, sendWire_onBothLinks _ hh], hd⟩
  · have hans : (s.setPending rest).answerAt = s.answerAt := State.answerAt_congr rfl rfl
    rw [step_of_error hr hh hp (by simp [State.accepts, Request.takenBeforeInit]) hd, runUndecoded,
      sendWire_onBothLinks bytes (s := s.setPending rest) hh, hans]
    rfl

end Sys2Proof.Proofs
end

section
/-!
PROOFS. The Orientation Transform: the stores to ROT, FLIPX and FLIPY, RESOLVE, and what each rotation reaches. The stages after
the clamp of R124 are undone by `clampedX` and `clampedY`; where positions share an index, and which indices are reached, is then
read off the clamp alone (`resolvePosition_eq_ok`).
-/

namespace Sys2Proof.Proofs

open Sys2Proof.Machine Sys2Proof.Laws

/-! ### The control fields -/

/-- A rotation's own degrees are the operand that is stored as it (R130). -/
@[simp] theorem legalRotation_degrees (v : Rotation) : legalRotation v.degrees = .ok v := by cases v <;> rfl

/-- The degrees of a rotation are stored and answered OK (R130). -/
theorem exec_setRotation_of_degrees {deg : BitVec 16} {v : Rotation} (hd : deg.toNat = v.degrees) {s : State}
    (hi : s.inited = true) (hh : s.hung = false) :
    exec (.setRotation deg) s = .next { s with rot := v, responses := s.responses ++ [0x0000000000#40] } := by
  rw [exec_setRotation, hostOperation_of_ready hi hh, storeRotation, hd, legalRotation_degrees]
  rfl

/-- Settles O30: the four legal operands are the degrees of the four rotations. -/
theorem setRotationValidatesItsOperand : Obligations.SetRotationValidatesItsOperand := by
  intro deg s hi hh
  refine ⟨fun hd => exec_setRotation_of_degrees hd hi hh, fun hd => exec_setRotation_of_degrees hd hi hh,
    fun hd => exec_setRotation_of_degrees hd hi hh, fun hd => exec_setRotation_of_degrees hd hi hh,
    fun h0 h90 h180 h270 => ?_, RoundTrip.setRotation deg rfl⟩
  have hl : legalRotation deg.toNat = .error .invalidArgument := by
    rw [legalRotation, if_neg h0, if_neg h90, if_neg h180, if_neg h270]
  rw [exec_setRotation, hostOperation_of_ready hi hh, storeRotation, hl]
  rfl

/-- Settles O31: DATA is ROT in degrees, whatever ROT is. -/
theorem getRotationReturnsDegrees : Obligations.GetRotationReturnsDegrees := by
  intro s hi hh
  have hx (v : Rotation) (hr : s.rot = v) :
      exec .getRotation s = .next { s with responses := s.responses ++ [hrw 0 (rotationData v)] } := by
    subst hr
    rw [exec_getRotation, hostOperation_of_ready hi hh]
    rfl
  exact ⟨hx .r0, hx .r90, hx .r180, hx .r270, RoundTrip.getRotation rfl⟩

/-- Settles O32: each flip is one store to its flag and the answer OK. -/
theorem flipsInvertTheirFlag : Obligations.FlipsInvertTheirFlag := by
  intro s hi hh
  refine ⟨?_, ?_, RoundTrip.flipX rfl, RoundTrip.flipY rfl⟩
  · rw [exec_flipX, hostOperation_of_ready hi hh]
    rfl
  · rw [exec_flipY, hostOperation_of_ready hi hh]
    rfl

/-! ### RESOLVE -/

/-- DATA of an index is the index (R90). -/
@[simp] theorem indexData_toNat (i : PixelIndex) : (indexData i).toNat = i.val := by
  have := i.isLt
  rw [indexData, BitVec.toNat_ofNat, Nat.mod_eq_of_lt (by omega)]

/-- Settles O26: the index answered is the formula of R127 by `canonicalIndex_eq`, so it is below 119. -/
theorem resolveReturnsTheCanonicalIndex : Obligations.ResolveReturnsTheCanonicalIndex := by
  intro x y s hi hh
  have hx : exec (.resolve x y) s =
      .next (respondOr (resolvePosition x.toInt y.toInt s.rot s.flipX s.flipY) indexData s) := by
    rw [exec_resolve, hostOperation_of_ready hi hh, coordinate, coordinate]
  refine ⟨fun hr => ?_, fun hr => ?_, RoundTrip.resolve x y rfl⟩
  · rw [hx, resolvePosition, if_pos hr, ← canonicalIndex_eq]
    have hc := (canonicalIndex s.rot s.flipX s.flipY x.toInt y.toInt).isLt
    refine ⟨Int.natCast_nonneg _, by omega, ?_⟩
    rw [respondOr, respond, State.addResponse, hrw_ok, indexData_toNat, Int.toNat_natCast]
  · rw [hx, resolvePosition, if_neg hr]
    rfl

/-! ### Undoing the flips -/

/-- A flip undoes itself (R125). -/
theorem flipAxis_eq_iff {last v w : Nat} (f : Bool) (hv : v ≤ last) (hw : w ≤ last) :
    flipAxis last f v = w ↔ v = flipAxis last f w := by
  unfold flipAxis
  split <;> omega

/-- A flip tells apart what it is given (R125). -/
theorem flipAxis_inj {last v w : Nat} (f : Bool) (hv : v ≤ last) (hw : w ≤ last) :
    flipAxis last f v = flipAxis last f w ↔ v = w := by
  unfold flipAxis
  split <;> omega

/-- The column of an index before the flip of R125: the clamped column of the positions that have the index. -/
def clampedX (rot : Rotation) (fx fy : Bool) (c : PixelIndex) : Nat := flipAxis 16 (effectiveFlips rot fx fy).1 (c.val / 7)

/-- The row of an index before the flip of R125. -/
def clampedY (rot : Rotation) (fx fy : Bool) (c : PixelIndex) : Nat := flipAxis 6 (effectiveFlips rot fx fy).2 (c.val % 7)

theorem column_le (c : PixelIndex) : c.val / 7 ≤ 16 := by omega

theorem row_le (c : PixelIndex) : c.val % 7 ≤ 6 := by omega

theorem clampedX_le (rot : Rotation) (fx fy : Bool) (c : PixelIndex) : clampedX rot fx fy c ≤ 16 :=
  flipAxis_le _ (column_le c)

theorem clampedY_le (rot : Rotation) (fx fy : Bool) (c : PixelIndex) : clampedY rot fx fy c ≤ 6 :=
  flipAxis_le _ (row_le c)

/-- An index is told by its column and its row before the flips (R125, R126). -/
theorem eq_iff_clamped (rot : Rotation) (fx fy : Bool) (c c' : PixelIndex) :
    c = c' ↔ clampedX rot fx fy c = clampedX rot fx fy c' ∧ clampedY rot fx fy c = clampedY rot fx fy c' := by
  rw [clampedX, clampedX, clampedY, clampedY, flipAxis_inj _ (column_le c) (column_le c'),
    flipAxis_inj _ (row_le c) (row_le c'), Fin.ext_iff]
  omega

/-- resolvePosition answers an index exactly for the positions in range that the rotation and the clamp take to its column and
its row before the flips (R122 to R127). -/
theorem resolvePosition_eq_ok {x y : Int} {rot : Rotation} {fx fy : Bool} {c : PixelIndex} :
    resolvePosition x y rot fx fy = .ok c ↔ InRange x y ∧
      max 0 (min (rotated rot x y).1 16) = clampedX rot fx fy c ∧
      max 0 (min (rotated rot x y).2 6) = clampedY rot fx fy c := by
  have hx := crop_eq (rotated rot x y).1 (bound := 17) (by decide)
  have hy := crop_eq (rotated rot x y).2 (bound := 7) (by decide)
  have hX := crop_lt (rotated rot x y).1 (bound := 17) (by decide)
  have hY := crop_lt (rotated rot x y).2 (bound := 7) (by decide)
  have hc : canonicalIndex rot fx fy x y = c ↔
      finalX (rotated rot x y).1 (effectiveFlips rot fx fy).1 = c.val / 7 ∧
        finalY (rotated rot x y).2 (effectiveFlips rot fx fy).2 = c.val % 7 := by
    have := finalY_le (rotated rot x y).2 (effectiveFlips rot fx fy).2
    rw [Fin.ext_iff]
    dsimp only [canonicalIndex]
    omega
  rw [finalX, finalY, flipAxis_eq_iff _ (Nat.le_of_lt_succ hX) (column_le c),
    flipAxis_eq_iff _ (Nat.le_of_lt_succ hY) (row_le c), ← clampedX, ← clampedY] at hc
  unfold resolvePosition
  split
  · next h =>
    rw [Except.ok.injEq, hc, and_iff_right h]
    omega
  · next h => simp [h]

/-! ### Rotations 0 and 180 -/

/-- Under rotation 0 the flips are undone and nothing is clamped: an index has one position (R128 (d)). -/
theorem resolvePosition_r0_eq_ok {x y : Int} {fx fy : Bool} {c : PixelIndex} :
    resolvePosition x y .r0 fx fy = .ok c ↔ x = clampedX .r0 fx fy c ∧ y = clampedY .r0 fx fy c := by
  have hX := clampedX_le .r0 fx fy c
  have hY := clampedY_le .r0 fx fy c
  rw [resolvePosition_eq_ok, rotated, InRange]
  omega

/-- Rotation 180 is rotation 0 with both flips inverted (R128 (c)). -/
theorem resolvePosition_r180 (x y : Int) (fx fy : Bool) :
    resolvePosition x y .r180 fx fy = resolvePosition x y .r0 (!fx) (!fy) := rfl

/-- Rotation 0 without flips is getOffset (R128 (b)). -/
theorem resolvePosition_r0_eq_getOffset (x y : Int) : resolvePosition x y .r0 false false = getOffset x y := by
  by_cases h : InRange x y
  · have ⟨hx, hx', hy, hy'⟩ := h
    rw [getOffset, dif_pos h, resolvePosition_r0_eq_ok]
    simp only [clampedX, clampedY, effectiveFlips, flipAxis, Bool.false_eq_true, if_false]
    omega
  · rw [getOffset_of_not_inRange h, resolvePosition, if_neg h]

/-- Settles O27: `resolvePosition_r0_eq_ok` gives the one position of an index, and rotation 180 is rotation 0. -/
theorem uprightRotationsAreBijective : Obligations.UprightRotationsAreBijective := by
  refine ⟨resolvePosition_r0_eq_getOffset, resolvePosition_r180, ?_⟩
  have r0 (fx fy : Bool) (c : PixelIndex) : ∃ x y, resolvePosition x y .r0 fx fy = .ok c ∧
      ∀ x' y', resolvePosition x' y' .r0 fx fy = .ok c → x' = x ∧ y' = y :=
    ⟨_, _, resolvePosition_r0_eq_ok.2 ⟨rfl, rfl⟩, fun _ _ => resolvePosition_r0_eq_ok.1⟩
  rintro rot fx fy c (rfl | rfl)
  · exact r0 fx fy c
  · exact r0 (!fx) (!fy) c

/-! ### Where rotations 90 and 270 collide -/

/-- Settles O28: two indices differ in a column or a row before the flips (`eq_iff_clamped`), so positions collide where the
rotated coordinates, (y, 7 − x) and (17 − y, x), are clamped alike. -/
theorem lossyRotationsCollideAsStated : Obligations.LossyRotationsCollideAsStated := by
  intro fx fy x y x' y' c c'
  constructor
  · intro h h'
    rw [resolvePosition_eq_ok, rotated, InRange] at h h'
    rw [eq_iff_clamped .r90 fx fy]
    omega
  · intro h h'
    rw [resolvePosition_eq_ok, rotated, InRange] at h h'
    rw [eq_iff_clamped .r270 fx fy]
    omega

/-! ### What rotations 90 and 270 reach -/

/-- The lanes of RENDER are the positions in range, by their storage index (R167). -/
theorem exists_laneIndex_eq_iff {rot : Rotation} {fx fy : Bool} {c : PixelIndex} :
    (∃ i, laneIndex rot fx fy i = c) ↔ ∃ x y, resolvePosition x y rot fx fy = .ok c := by
  constructor
  · rintro ⟨i, rfl⟩
    exact ⟨_, _, resolvePosition_of_storage rot fx fy i⟩
  · rintro ⟨x, y, h⟩
    have hr : InRange x y := (resolvePosition_eq_ok.1 h).1
    have ⟨hx, hx', hy, hy'⟩ := hr
    refine ⟨⟨(x * 7 + y).toNat, storage_lt hr⟩, Except.ok.inj (ε := ErrorKind) ?_⟩
    rw [← resolvePosition_of_storage, ← h]
    congr 1 <;> dsimp only <;> omega

/-- Rotation 90 reaches the columns that a row can become, 0 to 6 before the flip (R128 (e)). -/
theorem exists_laneIndex_r90_iff {fx fy : Bool} {c : PixelIndex} :
    (∃ i, laneIndex .r90 fx fy i = c) ↔ if fx then 70 ≤ c.val else c.val ≤ 48 := by
  have hY := clampedY_le .r90 fx fy c
  have hX : (if fx then 70 ≤ c.val else c.val ≤ 48) ↔ clampedX .r90 fx fy c ≤ 6 := by
    cases fx <;> simp [clampedX, effectiveFlips, flipAxis] <;> omega
  simp only [exists_laneIndex_eq_iff, resolvePosition_eq_ok, rotated, InRange, hX]
  constructor
  · rintro ⟨x, y, h⟩
    omega
  · intro h
    exact ⟨7 - clampedY .r90 fx fy c, clampedX .r90 fx fy c, by omega⟩

/-- Rotation 270 reaches the columns 11 to 16 before the flip: 17 − y, where 17 is clamped to 16 (R128 (f)). -/
theorem exists_laneIndex_r270_iff {fx fy : Bool} {c : PixelIndex} :
    (∃ i, laneIndex .r270 fx fy i = c) ↔ if fx then c.val ≤ 41 else 77 ≤ c.val := by
  have hY := clampedY_le .r270 fx fy c
  have hX16 := clampedX_le .r270 fx fy c
  have hX : (if fx then c.val ≤ 41 else 77 ≤ c.val) ↔ 11 ≤ clampedX .r270 fx fy c := by
    cases fx <;> simp [clampedX, effectiveFlips, flipAxis] <;> omega
  simp only [exists_laneIndex_eq_iff, resolvePosition_eq_ok, rotated, InRange, hX]
  constructor
  · rintro ⟨x, y, h⟩
    omega
  · intro h
    exact ⟨clampedY .r270 fx fy c, 17 - clampedX .r270 fx fy c, by omega⟩

/-- A map over all indices has as many different values as there are indices it reaches. -/
theorem length_dedup_map_finRange {f : PixelIndex → PixelIndex} {p : PixelIndex → Prop} [DecidablePred p]
    (h : ∀ c, (∃ i, f i = c) ↔ p c) :
    ((List.finRange 119).map f).dedup.length = (Finset.univ.filter p).card := by
  rw [← List.card_toFinset]
  refine congrArg Finset.card (Finset.ext fun c => ?_)
  simp only [List.mem_toFinset, List.mem_map, List.mem_finRange, true_and, h, Finset.mem_filter, Finset.mem_univ]

/-- Settles O29: the indices reached are the two ranges, and each range is counted. -/
theorem lossyRotationsReachFewIndices : Obligations.LossyRotationsReachFewIndices := by
  intro fx fy
  refine ⟨?_, ?_, fun i => ⟨exists_laneIndex_r90_iff.1 ⟨i, rfl⟩, exists_laneIndex_r270_iff.1 ⟨i, rfl⟩⟩⟩
  · rw [length_dedup_map_finRange fun c => exists_laneIndex_r90_iff]
    cases fx <;> rfl
  · rw [length_dedup_map_finRange fun c => exists_laneIndex_r270_iff]
    cases fx <;> rfl

end Sys2Proof.Proofs
end

section
/-!
PROOFS. LOOKUP, and the scan order of RENDER. Under rotations 0 and 180 no two lanes have the same canonical index, so with an
injective table every offset is written at most once, and the order of the writes cannot be seen in PHYS.
-/

namespace Sys2Proof.Proofs

open Sys2Proof.Machine Sys2Proof.Laws

/-! ### LOOKUP -/

/-- The three offsets of an entry fit DATA (R90). -/
@[simp] theorem lutData_toNat (e : LutEntry) :
    (lutData e).toNat = e.rOff.val * 2 ^ 18 + e.gOff.val * 2 ^ 9 + e.bOff.val := by
  have hr := e.rOff.isLt
  have hg := e.gOff.isLt
  have hb := e.bOff.isLt
  rw [lutData, BitVec.toNat_ofNat, Nat.mod_eq_of_lt (by omega)]

/-- lookup of an index is its entry of the table (R150). -/
theorem lookupLut_val (lut : Lut) (i : PixelIndex) : lookupLut lut i.val = .ok (lut i) := dif_pos i.isLt

/-- lookup raises InvalidPixel where the table has no entry (R152; the spec's decision D20). -/
theorem lookupLut_of_le (lut : Lut) {c : Nat} (h : 119 ≤ c) : lookupLut lut c = .error .invalidPixel :=
  dif_neg (Nat.not_lt.2 h)

/-- Settles O35: the answer is the table's entry, whose offsets fit DATA, or InvalidPixel. -/
theorem lookupReturnsTheOffsets : Obligations.LookupReturnsTheOffsets := by
  intro c s hi hh
  have hx : exec (.lookup c) s = .next (respondOr (lookupLut Config.params.lut c.toNat) lutData s) := by
    rw [exec_lookup, hostOperation_of_ready hi hh, lookupWith]
  refine ⟨fun i hc => ?_, fun hc => ?_, RoundTrip.lookup c rfl⟩
  · rw [hx, ← hc, lookupLut_val, respondOr, respond, State.addResponse, hrw_ok, lutData_toNat]
  · rw [hx, lookupLut_of_le _ hc]
    rfl

/-! ### The scan order of RENDER -/

/-- Under rotation 0 a lane's position is told by its canonical index (R128 (d)). -/
theorem laneIndex_r0_injective (fx fy : Bool) : Function.Injective (laneIndex .r0 fx fy) := by
  intro i j h
  obtain ⟨hix, hiy⟩ := resolvePosition_r0_eq_ok.1 (resolvePosition_of_storage .r0 fx fy i)
  obtain ⟨hjx, hjy⟩ := resolvePosition_r0_eq_ok.1 (resolvePosition_of_storage .r0 fx fy j)
  rw [h] at hix hiy
  rw [Fin.ext_iff]
  omega

/-- Under rotations 0 and 180 no two lanes share a canonical index: rotation 180 is rotation 0 with both flips inverted
(R128 (c), (d)). -/
theorem laneIndex_injective_of_upright {rot : Rotation} (h : rot = .r0 ∨ rot = .r180) (fx fy : Bool) :
    Function.Injective (laneIndex rot fx fy) := by
  obtain rfl | rfl := h
  · exact laneIndex_r0_injective fx fy
  · exact laneIndex_r0_injective (!fx) (!fy)

/-- With an injective table, lanes with different canonical indices write every offset at most once: their offsets are those of
the whole table in another order (R153). -/
theorem nodup_fst_laneWrites {lut : Lut} (h : LutInjective lut) {f : PixelIndex → PixelIndex} (hf : Function.Injective f)
    (g : Grid) : (((List.finRange 119).flatMap fun i => laneWrites (lut (f i)) (g.get i)).map Prod.fst).Nodup := by
  have hp : ((List.finRange 119).map f).Perm (List.finRange 119) :=
    Equiv.Perm.map_finRange_perm (Equiv.ofBijective f (Finite.injective_iff_bijective.1 hf))
  have hn := (hp.flatMap_right fun c => [(lut c).rOff, (lut c).gOff, (lut c).bOff]).nodup_iff.2 h
  rw [List.flatMap_map] at hn
  rw [List.map_flatMap]
  exact hn

/-- Where every offset is written at most once, what a byte holds depends on the set of the writes alone. -/
theorem lastWrite_congr_of_nodup {ws ws' : List (PhysAddr × Byte)} (hn : (ws'.map Prod.fst).Nodup)
    (hm : ∀ w, w ∈ ws ↔ w ∈ ws') (a : PhysAddr) : lastWrite ws a = lastWrite ws' a := by
  obtain ⟨w, hw, ha, he⟩ | ⟨hnone, he⟩ := lastWrite_cases ws a
  · obtain ⟨w', hw', ha', he'⟩ | ⟨hnone', -⟩ := lastWrite_cases ws' a
    · rw [he, he', List.inj_on_of_nodup_map hn ((hm w).1 hw) hw' (ha.trans ha'.symm)]
    · exact absurd ha (hnone' w ((hm w).1 hw))
  · obtain ⟨w', hw', ha', -⟩ | ⟨-, he'⟩ := lastWrite_cases ws' a
    · exact absurd ha' (hnone w' ((hm w').2 hw'))
    · rw [he, he']

/-- Settles O38: a permutation of the scan makes the same writes, each offset is written at most once, and a buffer in canonical
form is told by its bytes. -/
theorem uprightRenderIgnoresTheScanOrder : Obligations.UprightRenderIgnoresTheScanOrder := by
  intro lut order g rot fx fy hlut hrot hp
  refine physCanonicalFormIsUnique _ _ (wf_renderBuffer ..) (wf_renderBuffer ..) fun a => ?_
  rw [read_renderBuffer, read_renderBuffer]
  exact lastWrite_congr_of_nodup (nodup_fst_laneWrites hlut (laneIndex_injective_of_upright hrot fx fy) g)
    (fun _ => (hp.flatMap_right _).mem_iff) a

end Sys2Proof.Proofs
end

section
/-!
PROOFS. The logical grid (R160 to R166): the storage index of a position, the stored colour, and the operations that read or
write G.
-/

namespace Sys2Proof.Proofs

open Sys2Proof.Machine Sys2Proof.Laws

/-! ### The storage index -/

/-- Settles O24: an index is 7 × (s div 7) + s mod 7, and in range that is the only way to write it as x × 7 + y. -/
theorem getOffsetIsABijection : Obligations.GetOffsetIsABijection := by
  intro x y i
  have := i.isLt
  rw [getOffset_eq_ok, InRange]
  omega

/-- An operation that answers something of a storage index answers it for a position in range (R161, R163). -/
theorem respondOr_getOffset_of_eq {x y : Int} (h : InRange x y) {i : PixelIndex} (hi : (i.val : Int) = x * 7 + y)
    (data : PixelIndex → BitVec 32) (s : State) :
    respondOr (getOffset x y) data s = { s with responses := s.responses ++ [BitVec.ofNat 40 (data i).toNat] } := by
  rw [getOffset_eq_ok.2 ⟨h, hi⟩, respondOr, respond, hrw_ok, State.addResponse]

/-- Otherwise it answers InvalidPixel. -/
theorem respondOr_getOffset_of_not_inRange {x y : Int} (h : ¬ InRange x y) (data : PixelIndex → BitVec 32) (s : State) :
    respondOr (getOffset x y) data s = { s with responses := s.responses ++ [0x0100000000#40] } := by
  rw [getOffset_of_not_inRange h, respondOr, raise, hrw_invalidPixel, State.addResponse]

/-- Settles O23: the index is below 119, so DATA is the index. -/
theorem getOffsetReturnsTheStorageIndex : Obligations.GetOffsetReturnsTheStorageIndex := by
  intro x y s hi hh
  rw [exec_getOffset, hostOperation_of_ready hi hh, coordinate, coordinate]
  refine ⟨fun hr => ?_, fun hr => ?_, RoundTrip.getOffset x y rfl⟩
  · have hxy : (((⟨_, storage_lt hr⟩ : PixelIndex).val : Nat) : Int) = x.toInt * 7 + y.toInt :=
      Int.toNat_of_nonneg (by omega)
    rw [respondOr_getOffset_of_eq hr hxy, indexData_toNat]
  · rw [respondOr_getOffset_of_not_inRange hr]

/-! ### The stored colour -/

/-- A stored channel is the input channel shifted right by two, in 6 bits (R14). -/
theorem storedChannel_eq (c : Byte) : storedChannel c = (c >>> 2).setWidth 6 := by
  apply BitVec.eq_of_toNat_eq
  rw [storedChannel, BitVec.toNat_ofNat, BitVec.toNat_setWidth, BitVec.toNat_ushiftRight, Nat.shiftRight_eq_div_pow]

/-- A shifted channel fits 6 bits (R14). -/
@[simp] theorem storedChannel_toNat (c : Byte) : (storedChannel c).toNat = c.toNat / 4 := by
  have := c.isLt
  rw [storedChannel, BitVec.toNat_ofNat, Nat.mod_eq_of_lt (by omega)]

theorem storedColour_eq (r g b : Byte) :
    storedColour r g b = ⟨(r >>> 2).setWidth 6, (g >>> 2).setWidth 6, (b >>> 2).setWidth 6⟩ := by
  rw [storedColour, storedChannel_eq, storedChannel_eq, storedChannel_eq]

/-- The three channels fit DATA (R90). -/
@[simp] theorem pixelData_toNat (p : Pixel) :
    (pixelData p).toNat = p.r.toNat * 2 ^ 16 + p.g.toNat * 2 ^ 8 + p.b.toNat := by
  have hr := p.r.isLt
  have hg := p.g.isLt
  have hb := p.b.isLt
  rw [pixelData, BitVec.toNat_ofNat, Nat.mod_eq_of_lt (by omega)]

/-! ### SET_PIXEL and GET_PIXEL -/

/-- SET_PIXEL on a ready core (R162). -/
theorem exec_setPixel_of_ready (x y r g b : Byte) {s : State} (hi : s.inited = true) (hh : s.hung = false) :
    exec (.setPixel x y r g b) s = .next (storePixel x y (storedColour r g b) s) := by
  rw [exec_setPixel, hostOperation_of_ready hi hh]

/-- Settles O17: SET_PIXEL is a store of the shifted colour, `storePixel_effect`. -/
theorem setPixelStoresTheShiftedColour : Obligations.SetPixelStoresTheShiftedColour := by
  intro x y r g b s hi hh
  refine ⟨fun hr => ?_, fun hr => ?_, RoundTrip.setPixel x y r g b rfl⟩
  · obtain ⟨hs, hp⟩ := storePixel_effect hr (storedColour r g b) s
    exact ⟨_, exec_setPixel_of_ready x y r g b hi hh, hs, fun i => by rw [hp, storedColour_eq], fun a => by rw [hs]⟩
  · rw [exec_setPixel_of_ready x y r g b hi hh, storePixel_of_not_inRange hr]
    rfl

/-- Settles O18: the stored channels fit DATA, `pixelData_toNat`. -/
theorem getPixelReturnsTheStoredColour : Obligations.GetPixelReturnsTheStoredColour := by
  intro x y s hi hh
  rw [exec_getPixel, hostOperation_of_ready hi hh, coordinate, coordinate]
  refine ⟨fun i hr hxy => ?_, fun hr => ?_, RoundTrip.getPixel x y rfl⟩
  · rw [respondOr_getOffset_of_eq hr hxy, pixelData_toNat]
  · rw [respondOr_getOffset_of_not_inRange hr]

@[simp] theorem storePixel_inited (x y : Byte) (p : Pixel) (s : State) : (storePixel x y p s).inited = s.inited := by
  unfold storePixel
  split <;> simp

@[simp] theorem storePixel_hung (x y : Byte) (p : Pixel) (s : State) : (storePixel x y p s).hung = s.hung := by
  unfold storePixel
  split <;> simp

/-- A store to another position, in range or not, leaves the entry of a position in range: two positions in range have two
storage indices (R160). -/
theorem pixel_storePixel_of_ne {x y x' y' : Byte} (h : InRange x.toInt y.toInt) (hne : (x, y) ≠ (x', y'))
    {i : PixelIndex} (hxy : (i.val : Int) = x.toInt * 7 + y.toInt) (p : Pixel) (s : State) :
    (storePixel x' y' p s).pixel i = s.pixel i := by
  by_cases h' : InRange x'.toInt y'.toInt
  · obtain ⟨-, hp⟩ := storePixel_effect h' p s
    have hi : (i.val : Int) ≠ x'.toInt * 7 + y'.toInt := by
      rw [hxy]
      intro he
      have hx : x.toInt = x'.toInt := by omega
      have hy : y.toInt = y'.toInt := by omega
      exact hne (Prod.ext (BitVec.eq_of_toInt_eq hx) (BitVec.eq_of_toInt_eq hy))
    rw [hp, if_neg hi]
  · rw [storePixel_of_not_inRange h']
    rfl

/-- Settles O19: the second store leaves the entry of the first (`pixel_storePixel_of_ne`), and O18 reads it. -/
theorem setPixelThenGetPixelRoundTrip : Obligations.SetPixelThenGetPixelRoundTrip := by
  intro x y r g b x' y' r' g' b' s hi hh hr hne
  obtain ⟨i, hxy, -, -⟩ := storePixel_of_inRange hr (storedColour r g b) s
  obtain ⟨-, hp⟩ := storePixel_effect hr (storedColour r g b) s
  have hget := (getPixelReturnsTheStoredColour x y
    (storePixel x' y' (storedColour r' g' b') (storePixel x y (storedColour r g b) s)) (by simp [hi]) (by simp [hh])).1
      i hr hxy
  rw [execAll_cons (exec_setPixel_of_ready x y r g b hi hh),
    execAll_cons (exec_setPixel_of_ready x' y' r' g' b' (by simp [hi]) (by simp [hh])), execAll_cons hget]
  refine ⟨_, rfl, ?_⟩
  rw [List.getLast?_concat, pixel_storePixel_of_ne hr hne hxy, hp, if_pos hxy]
  simp [storedColour]

/-! ### SET_ALL and CLEAR -/

/-- A store to all of G changes G alone, and answers OK (R165, R166). -/
theorem respond_fillGrid_effect (p : Pixel) (s : State) :
    respond 0#32 (s.fillGrid p) = { s with
      grid := (respond 0#32 (s.fillGrid p)).grid, responses := s.responses ++ [0x0000000000#40] } ∧
    ∀ i, (respond 0#32 (s.fillGrid p)).pixel i = p :=
  ⟨rfl, fun i => State.pixel_fillGrid s i p⟩

/-- Settles O21: a store of the shifted colour to all of G. -/
theorem setAllFillsTheGrid : Obligations.SetAllFillsTheGrid := by
  intro r g b s hi hh
  obtain ⟨hs, hp⟩ := respond_fillGrid_effect (storedColour r g b) s
  exact ⟨⟨_, by rw [exec_setAll, hostOperation_of_ready hi hh], hs, fun i => by rw [hp, storedColour_eq],
    fun a => by simp⟩, RoundTrip.setAll r g b rfl⟩

/-- Settles O22: a store of black to all of G. -/
theorem clearBlackensTheGrid : Obligations.ClearBlackensTheGrid := by
  intro s hi hh
  obtain ⟨hs, hp⟩ := respond_fillGrid_effect Pixel.black s
  exact ⟨⟨_, by rw [exec_clear, hostOperation_of_ready hi hh], hs, hp, fun a => by simp⟩, RoundTrip.clear rfl⟩

end Sys2Proof.Proofs
end

section
/-!
PROOFS. What RENDER leaves in PHYS: each byte holds the last write to it (R167), and with an injective table a lane's three
bytes are its own unless a later lane has its canonical index (R168).
-/

namespace Sys2Proof.Proofs

open Sys2Proof.Machine Sys2Proof.Laws

/-! ### RENDER -/

/-- The writes of R167 are those of the lanes, in the order of the scan. -/
theorem renderWrites_eq (lut : Lut) (s : State) :
    renderWrites lut s =
      Config.renderOrder.flatMap fun i => laneWrites (lut (laneIndex s.rot s.flipX s.flipY i)) (s.pixel i) := rfl

/-- PHYS after RENDER: the value of the last write to each byte (R167). -/
theorem read_renderWith (lut : Lut) (s : State) (a : PhysAddr) :
    (renderWith lut s).phys.read a = lastWrite (renderWrites lut s) a := by
  rw [renderWith_phys, read_renderBuffer, renderWrites_eq]
  rfl

/-- Settles O36: RENDER writes PHYS alone, by `read_renderWith`. -/
theorem renderRebuildsThePhysicalBuffer : Obligations.RenderRebuildsThePhysicalBuffer := by
  intro s hi hh
  refine ⟨⟨_, exec_render_of_ready hi hh, ?_, fun a => ?_⟩, resolvePosition_of_storage s.rot s.flipX s.flipY,
    RoundTrip.render rfl⟩
  · rw [respond_phys, renderWith_phys, respond, State.addResponse, renderWith_eq, hrw_ok_zero]
  · rw [respond_phys, read_renderWith]

/-! ### The last write to a byte -/

/-- Writes to other bytes do not count. -/
theorem lastWrite_append_of_ne {ws' : List (PhysAddr × Byte)} {a : PhysAddr} (h : ∀ w ∈ ws', w.1 ≠ a)
    (ws : List (PhysAddr × Byte)) : lastWrite (ws ++ ws') a = lastWrite ws a := by
  have hf : ws'.filter (fun w => w.1 = a) = [] := List.filter_eq_nil_iff.2 (by simpa using h)
  rw [lastWrite, List.filter_append, hf, List.append_nil, lastWrite]

/-- The last of the writes leaves its value. -/
theorem lastWrite_concat (ws : List (PhysAddr × Byte)) (w : PhysAddr × Byte) : lastWrite (ws ++ [w]) w.1 = w.2 := by
  simp [lastWrite, List.filter_append]

/-- Where the last writes are to different bytes, each of them leaves its value. -/
theorem lastWrite_append_of_nodup {ws' : List (PhysAddr × Byte)} (hn : (ws'.map Prod.fst).Nodup) {w : PhysAddr × Byte}
    (hw : w ∈ ws') (ws : List (PhysAddr × Byte)) : lastWrite (ws ++ ws') w.1 = w.2 := by
  obtain ⟨before, after, rfl⟩ := List.append_of_mem hw
  have hne : ∀ w' ∈ after, w'.1 ≠ w.1 := by
    rw [List.map_append, List.map_cons, List.nodup_append, List.nodup_cons] at hn
    obtain ⟨-, ⟨hnot, -⟩, -⟩ := hn
    exact fun w' hw' he => hnot (he ▸ List.mem_map_of_mem hw')
  rw [List.append_cons, ← List.append_assoc, lastWrite_append_of_ne hne, ← List.append_assoc, lastWrite_concat]

/-! ### Injective tables -/

/-- A lane writes to three different bytes (R153). -/
theorem nodup_fst_lane {lut : Lut} (h : LutInjective lut) (c : PixelIndex) (p : Pixel) :
    ((laneWrites (lut c) p).map Prod.fst).Nodup :=
  (List.nodup_flatMap.1 h).1 c (List.mem_finRange c)

/-- Lanes with different canonical indices write to different bytes (R153). -/
theorem fst_ne_of_lanes {lut : Lut} (h : LutInjective lut) {c c' : PixelIndex} (hc : c' ≠ c) {p p' : Pixel}
    {w w' : PhysAddr × Byte} (hw : w ∈ laneWrites (lut c) p) (hw' : w' ∈ laneWrites (lut c') p') : w'.1 ≠ w.1 := by
  have hsymm : Std.Symm (Function.onFun List.Disjoint fun c : PixelIndex => [(lut c).rOff, (lut c).gOff, (lut c).bOff]) :=
    ⟨fun _ _ hd => List.Disjoint.symm hd⟩
  have hd := (List.nodup_flatMap.1 h).2.forall (List.mem_finRange c') (List.mem_finRange c) hc
  have hm : w.1 ∈ (laneWrites (lut c) p).map Prod.fst := List.mem_map_of_mem hw
  have hm' : w'.1 ∈ (laneWrites (lut c') p').map Prod.fst := List.mem_map_of_mem hw'
  exact fun he => hd hm' (he ▸ hm)

/-- The storage indices after i in the scan are larger (R167; decision D9). -/
theorem renderOrder_split (i : PixelIndex) :
    ∃ before after, Config.renderOrder = before ++ i :: after ∧ ∀ j ∈ after, i < j := by
  obtain ⟨before, after, hs⟩ := List.append_of_mem (List.mem_finRange i)
  have hsorted := (List.sortedLT_finRange 119).pairwise
  rw [hs, List.pairwise_append, List.pairwise_cons] at hsorted
  obtain ⟨-, ⟨hafter, -⟩, -⟩ := hsorted
  exact ⟨before, after, hs, hafter⟩

/-- Each write of a lane whose canonical index no later lane has is still there after RENDER. -/
theorem read_renderWith_of_mem_lane {lut : Lut} {s : State} {i : PixelIndex} (hlut : LutInjective lut)
    (hlast : ∀ j : PixelIndex, i < j → laneIndex s.rot s.flipX s.flipY j ≠ laneIndex s.rot s.flipX s.flipY i)
    {w : PhysAddr × Byte} (hw : w ∈ laneWrites (lut (laneIndex s.rot s.flipX s.flipY i)) (s.pixel i)) :
    (renderWith lut s).phys.read w.1 = w.2 := by
  obtain ⟨before, after, horder, hafter⟩ := renderOrder_split i
  rw [read_renderWith, renderWrites_eq, horder, List.flatMap_append, List.flatMap_cons, ← List.append_assoc,
    lastWrite_append_of_ne, lastWrite_append_of_nodup (nodup_fst_lane hlut _ _) hw]
  intro w' hw'
  obtain ⟨j, hj, hwj⟩ := List.mem_flatMap.1 hw'
  exact fst_ne_of_lanes hlut (hlast j (hafter j hj)) hw hwj

/-- Settles O37: the three writes of the lane, by `read_renderWith_of_mem_lane`. -/
theorem renderKeepsTheLargestStorageIndex : Obligations.RenderKeepsTheLargestStorageIndex := by
  intro lut s i hlut hlast
  have hread := fun w hw => read_renderWith_of_mem_lane hlut hlast (w := w) hw
  simpa only [laneWrites, List.mem_cons, List.not_mem_nil, or_false, forall_eq_or_imp, forall_eq, byteOf] using hread

end Sys2Proof.Proofs
end

section
/-!
PROOFS. The link splitter: the two frames as slices of the buffer, FRAME by every way its two frames can end, and
WRITE_DISPLAY as the transfer of its plan.
-/

namespace Sys2Proof.Proofs

open Sys2Proof.Machine Sys2Proof.Laws

/-! ### The function frame -/

/-- With a payload each frame is the command bytes and the link's slice of the buffer (R193, with BASE of R33). -/
theorem frame_some (cmd buf : List Byte) (n : Nat) :
    frame cmd (some (buf, n)) = (cmd ++ slice buf 0 n, cmd ++ slice buf 224 n) := rfl

/-- Byte j after the command bytes is byte j of the slice. -/
theorem getElem?_append_slice (cmd buf : List Byte) (base : Nat) {j n : Nat} (hj : j < n) :
    (cmd ++ slice buf base n)[cmd.length + j]? = buf[base + j]? := by
  rw [List.getElem?_append_right (Nat.le_add_right _ _), Nat.add_sub_cancel_left, slice, List.getElem?_take_of_lt hj,
    List.getElem?_drop]

/-- The two full payloads have no overlap and no gap (R205). -/
theorem slices_append {buf : List Byte} (hb : buf.length = 448) : slice buf 0 224 ++ slice buf 224 224 = buf := by
  have hrest : (buf.drop 224).take 224 = buf.drop 224 := List.take_of_length_le (by rw [List.length_drop]; omega)
  rw [slice, slice, List.drop_zero, hrest, List.take_append_drop]

/-- Settles O41: each frame is the command bytes and a slice, `frame_some`. -/
theorem frameSplitsTheBuffer : Obligations.FrameSplitsTheBuffer := by
  refine ⟨fun _ => rfl, fun cmd buf n hb hn => ?_⟩
  have hlen {base : Nat} (hbase : base ≤ 224) : (cmd ++ slice buf base n).length = cmd.length + n := by
    rw [List.length_append, slice_length (by omega)]
  rw [frame_some]
  refine ⟨hlen (by omega), hlen (by omega), List.take_left, List.take_left, fun j hj => ⟨?_, ?_⟩, ?_⟩
  · rw [getElem?_append_slice _ _ _ hj, Nat.zero_add]
  · rw [getElem?_append_slice _ _ _ hj]
  · rintro rfl
    rw [List.drop_left, List.drop_left, slices_append hb]

/-! ### FRAME -/

/-- An operation with nothing left to do after its frames changes only what its frames and its response change. -/
theorem endOf_id_frame (a : Answer) (s : State) (es : List Emission) :
    endOf a s es id = { s with
      answers := (endOf a s es id).answers
      wire := (endOf a s es id).wire
      responses := (endOf a s es id).responses
      hung := (endOf a s es id).hung } := by
  cases a <;> rfl

/-- The response by the answer the frames end with: OK, TransferError (R243), or none while the operation hangs (R250). -/
theorem endOf_response {s : State} (hh : s.hung = false) (a : Answer) (es : List Emission) {onSuccess : State → State}
    (hfh : ∀ u, (onSuccess u).hung = u.hung) (hfr : ∀ u, (onSuccess u).responses = u.responses) :
    (a = .success → (endOf a s es onSuccess).hung = false ∧
      (endOf a s es onSuccess).responses = s.responses ++ [0x0000000000#40]) ∧
    (a = .failure → (endOf a s es onSuccess).hung = false ∧
      (endOf a s es onSuccess).responses = s.responses ++ [0x0300000000#40]) ∧
    (a = .never → (endOf a s es onSuccess).hung = true ∧ (endOf a s es onSuccess).responses = s.responses) := by
  rw [endOf_hung hfh, hh, Bool.false_or]
  refine ⟨?_, ?_, ?_⟩ <;> rintro rfl <;> refine ⟨rfl, ?_⟩
  · rw [endOf, respond_responses, hfr, hrw_ok_zero, afterFrames]
  · rw [endOf, raise_responses, hrw_transferError, afterFrames]
  · rw [endOf, afterFrames]

/-- Settles O43: with a legal LEN by the end of its plan, with a longer one by `frameAndTransfer_of_long`. -/
theorem frameStopsAtTheFirstRefusedFrame : Obligations.FrameStopsAtTheFirstRefusedFrame := by
  intro cmd payload s hi hh
  refine ⟨fun hlen => ?_, ?_, decodeWord_packF payload⟩
  · refine ⟨_, by rw [exec_frame, hostOperation_of_ready hi hh, frameAndTransfer_eq hlen], endOf_id_frame _ _ _,
      endOf_wire fun _ => rfl, endOf_answers fun _ => rfl, endOf_response hh _ _ (fun _ => rfl) fun _ => rfl⟩
  · rintro len rfl hlong
    rw [exec_frame, hostOperation_of_ready hi hh, frameAndTransfer_of_long hlong, raise, State.addResponse,
      hrw_invalidArgument]

/-! ### WRITE_DISPLAY -/

/-- The frames of WRITE_DISPLAY are those of FRAME with `80 aa` and the whole payload (R201). -/
theorem linkFrames_writeDisplay_eq_framePlan (a : Byte) (m : Memory) :
    linkFrames [writeDisplayFrames a m.bytes] = framePlan [0x80#8, a] (some 224#8) m :=
  linkFrames_writeDisplay a m

/-- What a wire command leaves on a core that is not hung (R196, R250). -/
theorem sendWire_of_not_hung (f : List Byte × List Byte) {s : State} (hh : s.hung = false) :
    sendWire f s = { s with
      answers := s.answers.drop (presented (linkFrames [f]) s.answerAt).length
      wire := s.wire ++ presented (linkFrames [f]) s.answerAt
      hung := decide (ending (linkFrames [f]) s.answerAt = .never) } := by
  rw [sendWire_eq, afterFrames, hh, Bool.false_or]
  rfl

/-- Settles O51: one transfer of the plan of WRITE_DISPLAY. -/
theorem writeDisplaySendsPhys : Obligations.WriteDisplaySendsPhys := by
  intro a s hh
  refine ⟨?_, rfl⟩
  rw [exec_writeDisplay, anyTimeOperation_of_not_hung hh, sendWire_of_not_hung _ hh, linkFrames_writeDisplay_eq_framePlan]

end Sys2Proof.Proofs
end

section
/-!
PROOFS. The host sequences: SET_BRIGHTNESS and GET_BRIGHTNESS, and SHOW and INIT by every way their frames can end. What the
frames leave is said by `endOf`; the store to INITED at the end of INIT is its `onSuccess`.
-/

namespace Sys2Proof.Proofs

open Sys2Proof.Machine Sys2Proof.Laws

/-! ### SHOW -/

/-- SHOW on a ready core, for the state RENDER leaves (R223). -/
theorem exec_showDisplay_of_render {s r : State} (hi : s.inited = true) (hh : s.hung = false)
    (hr : exec .render s = .next r) :
    exec .showDisplay s = .next (endOf (ending (showPlan Config.params r.phys s.bri) s.answerAt) (s.setPhys r.phys)
      (presented (showPlan Config.params r.phys s.bri) s.answerAt) id) := by
  have hphys : r.phys = renderBuffer Config.params.lut Config.renderOrder s.grid s.rot s.flipX s.flipY := by
    rw [exec_render_of_ready hi hh] at hr
    rw [← Host.Outcome.next.inj hr, respond_phys, renderWith_phys]
  rw [exec_showDisplay, hostOperation_of_ready hi hh, showWith_eq _ _ hphys]

/-- Settles O45: the end of the plan of SHOW, from the state with the buffer RENDER leaves. -/
theorem showStopsAtTheFirstRefusedFrame : Obligations.ShowStopsAtTheFirstRefusedFrame := by
  refine ⟨fun s hi hh => ?_, RoundTrip.showDisplay rfl⟩
  obtain ⟨r, hr⟩ : ∃ r, exec .render s = .next r := ⟨_, exec_render_of_ready hi hh⟩
  exact ⟨_, r, exec_showDisplay_of_render hi hh hr, hr, endOf_id_frame _ (s.setPhys r.phys) _, endOf_wire fun _ => rfl,
    endOf_answers fun _ => rfl,
    endOf_response (s := s.setPhys r.phys) hh _ _ (onSuccess := id) (fun _ => rfl) fun _ => rfl⟩

/-! ### INIT -/

/-- INIT on a core that is not hung, in UNINIT and in READY alike (R224). -/
theorem exec_init_of_not_hung {s : State} (hh : s.hung = false) :
    exec .init s = .next (endOf (ending (initPlan Config.params) s.answerAt) (s.setInited false)
      (presented (initPlan Config.params) s.answerAt) fun u => u.setInited true) := by
  rw [exec_init, anyTimeOperation_of_not_hung hh, initWith_eq]

/-- Settles O47: the plan of INIT has 16 frames, and INITED is set after the last of them. -/
theorem initSendsTheEightSteps : Obligations.InitSendsTheEightSteps := by
  intro s hh hans
  have hplan : ∀ j < (initPlan Config.params).length, s.answerAt j = .success := hans
  rw [exec_init_of_not_hung hh, ending_of_success hplan, presented_of_success hplan]
  simp [endOf, afterFrames, respond, State.addResponse, State.setInited]

/-- INIT changes only INITED and what its frames and its response change. -/
theorem endOf_init_frame (a : Answer) (s : State) (es : List Emission) {t : State}
    (ht : t = endOf a (s.setInited false) es fun u => u.setInited true) :
    t = { s with
      inited := t.inited, answers := t.answers, wire := t.wire, responses := t.responses, hung := t.hung } := by
  subst ht
  cases a <;> rfl

/-- INITED is 1 exactly when every frame of INIT was taken (R224). -/
theorem endOf_init_inited (a : Answer) (s : State) (es : List Emission) :
    (endOf a (s.setInited false) es fun u => u.setInited true).inited = (a == .success) := by
  cases a <;> rfl

/-- Settles O48: the end of the plan of INIT, with INITED by `endOf_init_inited`. -/
theorem initStopsAtTheFirstRefusedFrame : Obligations.InitStopsAtTheFirstRefusedFrame := by
  refine ⟨fun s hh => ?_, RoundTrip.init rfl⟩
  obtain ⟨hok, hfailed, hnever⟩ := endOf_response (s := s.setInited false) hh (ending (initPlan Config.params) s.answerAt)
    (presented (initPlan Config.params) s.answerAt) (onSuccess := fun u => u.setInited true) (fun _ => rfl) fun _ => rfl
  refine ⟨_, exec_init_of_not_hung hh, endOf_init_frame _ s _ rfl, endOf_wire fun _ => rfl, endOf_answers fun _ => rfl,
    fun h => ⟨?_, hok h⟩, fun h => ⟨?_, hfailed h⟩, fun h => ⟨?_, hnever h⟩⟩
  all_goals
    rw [endOf_init_inited, h]
    rfl

/-! ### Brightness -/

/-- A word with an operation's code and a must-be-zero field that is not 0 is illegal (R99). -/
theorem decodeWord_of_reserved {w : Hcw} {op : HostOp} (hc : w.toNat / 2 ^ 56 = op.code) {lo n : Nat}
    (hf : (lo, n) ∈ op.reserved) (hne : w.toNat / 2 ^ lo % 2 ^ n ≠ 0) : decodeWord w = .error .reservedBits := by
  have hop : opField w = op.code := by
    have := w.isLt
    rw [opField, field_toNat, ← hc]
    omega
  have hz : ¬ fieldsZero w op.reserved = true := fun h => hne ((fieldsZero_iff w op.reserved).1 h _ hf)
  simp only [decodeWord, hop, hostOp_ofCode_code, if_neg hz]

/-- Settles O33: BRI is stored on a ready core, and IMM[15:6] is a must-be-zero field of the word. -/
theorem setBrightnessStoresTheCode : Obligations.SetBrightnessStoresTheCode := by
  refine ⟨fun code s hi hh => ⟨?_, RoundTrip.setBrightness code rfl⟩, fun imm himm => ?_⟩
  · rw [exec_setBrightness, hostOperation_of_ready hi hh]
    rfl
  · have hlt := imm.isLt
    have hw : (BitVec.ofNat 64 (0x0C * 2 ^ 56 + imm.toNat)).toNat = _ := toNat_ofNat_of_lt (by omega)
    refine decodeWord_of_reserved (op := .setBrightness) (lo := 6) (n := 10) ?_ ?_ ?_
    · rw [hw, HostOp.code]
      omega
    · simp [HostOp.reserved]
    · omega

/-- DATA of a brightness code is the code (R90). -/
@[simp] theorem brightnessData_toNat (v : Brightness) : (brightnessData v).toNat = v.toNat := by
  rw [brightnessData, BitVec.toNat_setWidth_of_le (by decide)]

/-- Settles O34: DATA is BRI, and the response is the only change. -/
theorem getBrightnessReturnsTheCode : Obligations.GetBrightnessReturnsTheCode := by
  intro s hi hh
  refine ⟨?_, RoundTrip.getBrightness rfl⟩
  rw [exec_getBrightness, hostOperation_of_ready hi hh, respond, State.addResponse, hrw_ok, brightnessData_toNat]

end Sys2Proof.Proofs
end

section
/-!
PROOFS. UNINIT and a hung core: the INIT word is the one host command word taken in UNINIT, only an INIT whose 16 frames are
all taken leaves that state, and a hung core waits for reset.
-/

namespace Sys2Proof.Proofs

open Sys2Proof.Machine Sys2Proof.Laws

/-! ### From UNINIT to READY -/

/-- A sequence that ends in success presented every frame, and each was taken. -/
theorem presented_of_ending_success {plan : List (Link × List Byte)} {ans : Nat → Answer}
    (h : ending plan ans = .success) : presented plan ans = plan.map fun f => ⟨f.1, f.2, .success⟩ := by
  induction plan generalizing ans with
  | nil => rfl
  | cons f rest ih =>
    rcases h0 : ans 0 with _ | _ | _ <;> rw [ending, h0] at h
    · rw [presented, h0, ih h, List.map_cons]
    · cases h
    · cases h

/-- From s to t the 16 frames of INIT were sent and taken, and OK was answered (R224, R225). -/
def InitSucceeded (s t : State) : Prop :=
  t.wire = s.wire ++ (initPlan Config.params).map (fun f => ⟨f.1, f.2, .success⟩) ∧
    t.responses = s.responses ++ [0x0000000000#40]

/-- The only instruction that leads from UNINIT to READY is an INIT that succeeds; it leaves the requests as they are. -/
theorem initSucceeded_of_effect {s t : State} {i : Instr} (he : Effect s i t) (hu : s.inited = false)
    (hr : t.inited = true) : i = .init ∧ t.pending = s.pending ∧ InitSucceeded s t := by
  have unready {p : Prop} (h : s.inited = true) : p := by simp [hu] at h
  cases he with
  | notTaken => exact unready hr
  | quiet _ hi => exact unready hi
  | frame _ _ hi => exact unready hi
  | shown _ hi => exact unready hi
  | wire => exact unready hr
  | init _ hi =>
    rw [endOf_init_inited, beq_iff_eq] at hr
    rw [hr, presented_of_ending_success hr]
    exact ⟨hi, rfl, rfl, rfl⟩

/-- INIT is decoded from its word only. -/
theorem eq_initWord_of_decode {r : Request} (h : decode r = .ok .init) : r = .word 0x1B00000000000000#64 :=
  (encodeOfDecodeIsTheRequest r .init h).2.symm

/-- Settles O49: a reset ends in UNINIT, and of what the next request can be only the INIT word leads to READY
(`initSucceeded_of_effect`). -/
theorem onlyASuccessfulInitLeavesUninit : Obligations.OnlyASuccessfulInitLeavesUninit := by
  intro s t hs hu hr
  obtain ⟨-, rfl⟩ | ⟨-, ha⟩ | ⟨k, u, -, -, rfl⟩ := step_cases hs
  · simp at hr
  · obtain rfl | ⟨-, _, _, _, -, hi, -, -⟩ | ⟨-, bytes, rest, e, -, -, rfl⟩ | ⟨-, r, rest, i, hp, -, hd, hx⟩ :=
      advance_cases ha
    · simp [hu] at hr
    · simp [hu] at hi
    · rw [sendWire_eq] at hr
      simp [afterFrames, hu] at hr
    · obtain ⟨rfl, hpt, hw, hres⟩ := initSucceeded_of_effect (s := s.setPending rest) (effect_of_exec hx) hu hr
      refine ⟨?_, hw, hres⟩
      rw [hp, eq_initWord_of_decode hd, hpt, State.setPending_pending]
  · simp at hr

/-! ### What UNINIT accepts -/

/-- In UNINIT a host command word other than INIT's is not accepted (R252; assumption 6). -/
theorem accepts_eq_false_of_uninit {s : State} (hu : s.inited = false) {w : Hcw} (hw : w ≠ 0x1B00000000000000#64) :
    s.accepts (.word w) = false := by
  rw [State.accepts, hu, Bool.false_or]
  unfold Request.takenBeforeInit
  dsimp only
  split
  · next hd => exact absurd (Request.word.inj (eq_initWord_of_decode (r := .word w) hd)) hw
  · rfl

/-- … so it stays where it is and nothing changes. -/
theorem step_of_uninit {s : State} {w : Hcw} {rest : List Request} (hu : s.inited = false) (hh : s.hung = false)
    (hr : s.resetLine = .idle) (hp : s.pending = .word w :: rest) (hw : w ≠ 0x1B00000000000000#64) :
    step s = .next s :=
  step_of_not_accepted hr hh hp (accepts_eq_false_of_uninit hu hw)

/-- Settles O7: a word with another code is not INIT's (`step_of_uninit`), INIT's word runs, and the other host operations
have no effect (`exec_of_not_ready`). -/
theorem uninitTakesOnlyInit : Obligations.UninitTakesOnlyInit := by
  refine ⟨fun s w rest hu hh hr hp => ⟨fun hc => step_of_uninit hu hh hr hp ?_, ?_⟩,
    fun i s hu hw hi => exec_of_not_ready (.inl hu) hw hi⟩
  · rintro rfl
    exact hc (by decide)
  · rintro rfl
    exact stepRunsTheDecodedInstruction s _ rest .init hr hh hp (RoundTrip.init rfl) (.inr (.inl rfl))

/-! ### Reset, and a hung core -/

/-- A reset between operations, or of a hung one, is `applyReset`, however it was asserted. -/
theorem step_of_reset_or_hung {s : State} (h : s.resetLine = .asserted ∨ (s.hung = true ∧ s.resetLine ≠ .idle)) :
    step s = .next s.applyReset := by
  rcases hr : s.resetLine with _ | _ | k
  · simp [hr] at h
  · exact step_of_reset hr
  · have hh : s.hung = true := by simpa [hr] using h
    rw [step_of_during hr (advance_of_hung (s := s.setResetLine .idle) hh), State.resetDuring_self]

/-- Settles O8: an INIT word with a must-be-zero bit set is another word than INIT's, a reset keeps what belongs to the host
and the transport, and without a request `advance_of_idle` holds. -/
theorem heldRequestsStayWithTheHost : Obligations.HeldRequestsStayWithTheHost := by
  refine ⟨fun s w rest hu hh hr hp _ hz => step_of_uninit hu hh hr hp ?_, fun s h => ⟨_, step_of_reset_or_hung h, ?_⟩,
    fun s hr hp => (step_of_idle hr).trans (advance_of_idle hp)⟩
  · rintro rfl
    exact hz (by decide)
  · simp

/-- A host operation that sends nothing hangs nothing. -/
theorem quiet_hung {s t : State} {i : Instr} (h : Quiet s i t) : t.hung = s.hung := by
  cases h with
  | ok u v same =>
    obtain ⟨-, hh, -⟩ := same
    exact hh
  | invalidPixel => rfl
  | invalidArgument => rfl

/-- An instruction that leaves itself in progress gives no response word (R250). -/
theorem responses_of_hung {s t : State} {i : Instr} (he : Effect s i t) (hh : s.hung = false) (ht : t.hung = true) :
    t.responses = s.responses := by
  cases he with
  | notTaken => rfl
  | quiet _ _ _ _ _ _ _ hq => simp [quiet_hung hq, hh] at ht
  | frame => exact (answersOnce_endOf hh rfl _ _ (fun _ => rfl) fun _ => rfl).2 ht
  | shown m => exact (answersOnce_endOf (u := s.setPhys m) hh rfl _ _ (fun _ => rfl) fun _ => rfl).2 ht
  | init =>
    exact (answersOnce_endOf (u := s.setInited false) hh rfl _ _ (onSuccess := fun u => u.setInited true) (fun _ => rfl)
      fun _ => rfl).2 ht
  | wire => rfl

/-- Settles O9: by the ways an instruction can go, `responses_of_hung`; and every form of reset leaves no operation hung. -/
theorem hungCoreWaitsForReset : Obligations.HungCoreWaitsForReset := by
  refine ⟨fun i s t hh hx ht => responses_of_hung (effect_of_exec hx) hh ht, fun s hh hr => step_of_hung hr hh,
    fun i s hh => exec_of_hung i hh, fun s hr => ?_⟩
  obtain ⟨t, ht, -, -, -, -, -, -, -, hh, -⟩ := resetInterfaceRestoresTheCore.1 s hr
  exact ⟨t, ht, hh⟩

end Sys2Proof.Proofs
end

section
/-!
PROOFS. The three errors: which of them an operation answers, and what it leaves. An operation that sends nothing ends as
`Quiet` says; one that transfers ends in TransferError exactly where the last frame it presented was refused.
-/

namespace Sys2Proof.Proofs

open Sys2Proof.Machine Sys2Proof.Laws

/-! ### Response words -/

/-- The STATUS of a response word (R89). -/
theorem hrw_status {status : Nat} (h : status < 256) (data : BitVec 32) : (hrw status data).toNat / 2 ^ 32 = status := by
  have := data.isLt
  rw [hrw_toNat h]
  omega

/-- Two errors with one response word are one error. -/
theorem hrw_error_inj {e e' : ErrorKind} : hrw e.status 0#32 = hrw e'.status 0#32 ↔ e = e' := by
  cases e <;> cases e' <;> decide

/-- No response OK is an error's. -/
theorem hrw_ok_ne_error (data : BitVec 32) (e : ErrorKind) : hrw 0 data ≠ hrw e.status 0#32 := by
  intro h
  have hs := congrArg (fun w => w.toNat / 2 ^ 32) h
  cases e <;> simp only [hrw_status, ErrorKind.status, Nat.reduceLT] at hs <;> omega

/-! ### The causes of an error -/

/-- From s to t frames were presented, and the last of them was refused (R243). -/
def FrameRefused (s t : State) : Prop :=
  ∃ es e, t.wire = s.wire ++ es ∧ es.getLast? = some e ∧ e.answer = .failure

/-- The causes of each error (R241 to R243), for an instruction that leads from s to t. -/
def Cause (s : State) (i : Instr) (t : State) : ErrorKind → Prop
  | .invalidPixel => BadPixel i
  | .invalidArgument => BadArgument i
  | .transferError => ((∃ cmd payload, i = .frame cmd payload) ∨ i = .showDisplay ∨ i = .init) ∧ FrameRefused s t

/-- From s to t an error is answered exactly where it has a cause. -/
def ErrorsByCause (s : State) (i : Instr) (t : State) : Prop :=
  ∀ e : ErrorKind, t.responses = s.responses ++ [hrw e.status 0#32] ↔ Cause s i t e

theorem errorsByCause_raise {s u : State} {i : Instr} {e : ErrorKind} (hr : u.responses = s.responses)
    (hc : ∀ e', Cause s i (raise e u) e' ↔ e' = e) : ErrorsByCause s i (raise e u) := by
  intro e'
  rw [hc, raise_responses, hr, List.append_cancel_left_eq, List.singleton_inj, hrw_error_inj, eq_comm]

theorem errorsByCause_respond {s u : State} {i : Instr} {v : BitVec 32} (hr : u.responses = s.responses)
    (hc : ∀ e, ¬ Cause s i (respond v u) e) : ErrorsByCause s i (respond v u) := by
  intro e
  rw [respond_responses, hr, List.append_cancel_left_eq, List.singleton_inj]
  exact iff_of_false (hrw_ok_ne_error v e) (hc e)

/-! ### The operations that send nothing -/

/-- Where nothing was presented nothing was refused. -/
theorem not_frameRefused_of_wire_eq {s t : State} (h : t.wire = s.wire) : ¬ FrameRefused s t := by
  rintro ⟨es, e, hw, he, -⟩
  obtain rfl : es = [] := by simpa [h] using hw
  cases he

/-- InvalidPixel and InvalidArgument have different operations. -/
theorem not_badArgument_of_badPixel {i : Instr} (h : BadPixel i) : ¬ BadArgument i := by
  obtain ⟨x, y, ⟨r, g, b, rfl⟩ | rfl | rfl | rfl | rfl, -⟩ | ⟨c, rfl, -⟩ := h <;> simp [BadArgument]

/-- Where nothing was presented, only InvalidPixel and InvalidArgument can have a cause. -/
theorem cause_iff_of_wire_eq {s t : State} (h : t.wire = s.wire) (i : Instr) (e : ErrorKind) :
    Cause s i t e ↔ e = .invalidPixel ∧ BadPixel i ∨ e = .invalidArgument ∧ BadArgument i := by
  cases e with
  | invalidPixel => simp [Cause]
  | invalidArgument => simp [Cause]
  | transferError => simp [Cause, not_frameRefused_of_wire_eq h]

/-- The error of an operation that sends nothing goes by its operands alone. -/
theorem errorsByCause_of_quiet {s t : State} {i : Instr} (h : Quiet s i t) : ErrorsByCause s i t := by
  cases h with
  | ok u v same _ _ _ _ _ _ good =>
    obtain ⟨-, -, -, -, -, hr, hw⟩ := same
    refine errorsByCause_respond hr fun e => ?_
    rw [cause_iff_of_wire_eq (t := respond v u) hw]
    simp [good]
  | invalidPixel hb =>
    have ha := not_badArgument_of_badPixel hb
    exact errorsByCause_raise rfl fun e => (cause_iff_of_wire_eq rfl i e).trans (by simp [hb, ha])
  | invalidArgument hb =>
    have hp : ¬ BadPixel i := fun h => not_badArgument_of_badPixel h hb
    exact errorsByCause_raise rfl fun e => (cause_iff_of_wire_eq rfl i e).trans (by simp [hb, hp])

/-! ### The operations that transfer -/

/-- The last frame of a sequence was refused exactly where the sequence ended in failure. -/
theorem frameRefused_iff {s t : State} {plan : List (Link × List Byte)} {ans : Nat → Answer} (hne : plan ≠ [])
    (hw : t.wire = s.wire ++ presented plan ans) : FrameRefused s t ↔ ending plan ans = .failure := by
  obtain ⟨e, he, hea⟩ := getLast_presented_answer (ans := ans) hne
  constructor
  · rintro ⟨es, e', hw', he', hea'⟩
    obtain rfl : es = presented plan ans := List.append_cancel_left (hw'.symm.trans hw)
    obtain rfl : e' = e := Option.some.inj (he'.symm.trans he)
    exact hea.symm.trans hea'
  · exact fun h => ⟨_, e, hw, he, hea.trans h⟩

/-- FRAME with a legal LEN, SHOW and INIT: the one error is TransferError, by the answer their frames end with. -/
theorem errorsByCause_endOf {s u : State} {i : Instr} {plan : List (Link × List Byte)} {ans : Nat → Answer}
    {onSuccess : State → State} (hr : u.responses = s.responses) (hw : u.wire = s.wire) (hne : plan ≠ [])
    (hfr : ∀ v, (onSuccess v).responses = v.responses) (hfw : ∀ v, (onSuccess v).wire = v.wire)
    (hi : (∃ cmd payload, i = .frame cmd payload) ∨ i = .showDisplay ∨ i = .init) (hg : ¬ BadPixel i ∧ ¬ BadArgument i) :
    ErrorsByCause s i (endOf (ending plan ans) u (presented plan ans) onSuccess) := by
  have hend (e : ErrorKind) : Cause s i (endOf (ending plan ans) u (presented plan ans) onSuccess) e ↔
      e = .transferError ∧ ending plan ans = .failure := by
    cases e with
    | invalidPixel => simp [Cause, hg]
    | invalidArgument => simp [Cause, hg]
    | transferError =>
      have hwire := endOf_wire (a := ending plan ans) (s := u) (es := presented plan ans) hfw
      rw [hw] at hwire
      simp [Cause, hi, frameRefused_iff hne hwire]
  rcases ha : ending plan ans with _ | _ | _ <;> rw [ha] at hend
  · exact errorsByCause_respond ((hfr _).trans hr) fun e h => by simpa using (hend e).1 h
  · exact errorsByCause_raise (u := afterFrames u _ .failure) hr fun e => (hend e).trans (by simp)
  · exact fun e => iff_of_false (by simp [endOf, afterFrames, hr]) fun h => by simpa using (hend e).1 h

/-- Every host operation that is taken answers its errors by their causes. -/
theorem errorsByCause_of_effect {s t : State} {i : Instr} (he : Effect s i t) (hi : s.inited = true ∨ i = .init)
    (hh : s.hung = false) (hw : IsWireCommand i = false) : ErrorsByCause s i t := by
  cases he with
  | notTaken hn =>
    obtain hn | ⟨hu, -, hne⟩ := hn
    · simp [hh] at hn
    · simp [hu, hne] at hi
  | quiet _ _ _ _ _ _ _ hq => exact errorsByCause_of_quiet hq
  | frame cmd payload _ _ he hl =>
    subst he
    have hne : framePlan cmd payload s.phys ≠ [] := List.ne_nil_of_length_pos (by simp)
    exact errorsByCause_endOf rfl rfl hne (fun _ => rfl) (fun _ => rfl) (.inl ⟨cmd, payload, rfl⟩)
      ⟨by simp [BadPixel], by simpa [BadArgument] using hl⟩
  | shown m _ _ he =>
    subst he
    exact errorsByCause_endOf (u := s.setPhys m) rfl rfl (List.cons_ne_nil _ _) (fun _ => rfl) (fun _ => rfl)
      (.inr (.inl rfl)) (by simp [BadPixel, BadArgument])
  | init _ he =>
    subst he
    exact errorsByCause_endOf (u := s.setInited false) rfl rfl (List.cons_ne_nil _ _) (fun _ => rfl)
      (fun _ => rfl) (.inr (.inr rfl)) (by simp [BadPixel, BadArgument])
  | wire _ _ hc => simp [hw] at hc

/-- Settles O57: `errorsByCause_of_effect`, for each of the three errors. -/
theorem eachErrorHasItsCauses : Obligations.EachErrorHasItsCauses := by
  intro i s t hi hh hw hx
  have h := errorsByCause_of_effect (effect_of_exec hx) hi hh hw
  exact ⟨h .invalidPixel, h .invalidArgument, h .transferError⟩

/-! ### What an error leaves -/

/-- A sequence that ends in failure presented frames that were taken, and then the one that was refused (R226). -/
theorem presented_of_ending_failure {plan : List (Link × List Byte)} {ans : Nat → Answer}
    (h : ending plan ans = .failure) :
    ∃ es e, presented plan ans = es ++ [e] ∧ (∀ f ∈ es, f.answer = .success) ∧ e.answer = .failure := by
  induction plan generalizing ans with
  | nil => cases h
  | cons f rest ih =>
    rcases h0 : ans 0 with _ | _ | _ <;> rw [ending, h0] at h
    · obtain ⟨es, e, hp, hes, he⟩ := ih h
      exact ⟨⟨f.1, f.2, .success⟩ :: es, e, by rw [presented, h0, hp, List.cons_append], by simpa using hes, he⟩
    · exact ⟨[], ⟨f.1, f.2, .failure⟩, by simp [presented, h0], by simp, rfl⟩
    · cases h

/-- An operation that sends nothing and answers an error changes nothing, and the error is not TransferError. -/
theorem quiet_of_error {s t : State} {i : Instr} {w : Hrw} (h : Quiet s i t) (hr : t.responses = s.responses ++ [w])
    (hw : w.toNat / 2 ^ 32 ≠ 0) : t = s.addResponse w ∧ w ≠ 0x0300000000#40 := by
  cases h with
  | ok u v same =>
    obtain ⟨-, -, -, -, -, hu, -⟩ := same
    obtain rfl : hrw 0 v = w := by simpa [hu] using hr
    exact absurd (hrw_status (by decide) v) hw
  | invalidPixel =>
    obtain rfl : 0x0100000000#40 = w := by simpa using hr
    exact ⟨rfl, by decide⟩
  | invalidArgument =>
    obtain rfl : 0x0200000000#40 = w := by simpa using hr
    exact ⟨rfl, by decide⟩

/-- An operation that transfers and answers an error answers TransferError, after frames that were taken and the one that was
refused, and does nothing more. -/
theorem endOf_of_error {u : State} {plan : List (Link × List Byte)} {ans : Nat → Answer} {onSuccess : State → State}
    {w : Hrw} (hr : (endOf (ending plan ans) u (presented plan ans) onSuccess).responses = u.responses ++ [w])
    (hfr : ∀ v, (onSuccess v).responses = v.responses) (hw : w.toNat / 2 ^ 32 ≠ 0) :
    w = 0x0300000000#40 ∧ ∃ es e, (∀ f ∈ es, f.answer = .success) ∧ e.answer = .failure ∧
      endOf (ending plan ans) u (presented plan ans) onSuccess =
        raise .transferError (afterFrames u (es ++ [e]) .failure) := by
  rcases ha : ending plan ans with _ | _ | _ <;> rw [ha] at hr
  · obtain rfl : 0x0000000000#40 = w := by simpa [endOf, hfr, afterFrames] using hr
    exact absurd rfl hw
  · obtain rfl : 0x0300000000#40 = w := by simpa [endOf, afterFrames] using hr
    obtain ⟨es, e, hp, hes, he⟩ := presented_of_ending_failure ha
    exact ⟨rfl, es, e, hes, he, by rw [hp, endOf]⟩
  · simp [endOf, afterFrames] at hr

/-- Settles O58: `quiet_of_error` where nothing is sent, `endOf_of_error` for FRAME, SHOW and INIT; the illegal word is the one
of O5. -/
theorem errorsLeaveTheCoreUnchanged : Obligations.ErrorsLeaveTheCoreUnchanged := by
  refine ⟨fun i s t w hi hh hx hr hw => ?_, illegalWordsAreAnsweredInvalidArgument.1⟩
  cases effect_of_exec hx with
  | notTaken => simp at hr
  | wire => simp [afterFrames] at hr
  | quiet _ hin _ _ hn hs _ hq =>
    obtain ⟨rfl, hne⟩ := quiet_of_error hq hr hw
    exact ⟨rfl, rfl, rfl, rfl, rfl, hh, fun _ => hin, fun h => absurd h hn, fun _ => rfl, fun h => absurd h hs,
      fun h => absurd h hne, fun _ => rfl⟩
  | frame cmd payload hin _ he =>
    subst he
    obtain ⟨rfl, es, e, hes, hf, hend⟩ := endOf_of_error hr (fun _ => rfl) hw
    rw [hend]
    exact ⟨rfl, rfl, rfl, rfl, rfl, by simp [afterFrames, hh], fun _ => hin, nofun, fun _ => rfl, nofun,
      fun _ => ⟨es, e, by simp [afterFrames], hes, hf⟩, fun h => absurd rfl h⟩
  | shown m hin _ he hm =>
    obtain ⟨rfl, es, e, hes, hf, hend⟩ := endOf_of_error (u := s.setPhys m) hr (fun _ => rfl) hw
    rw [hend]
    exact ⟨rfl, rfl, rfl, rfl, rfl, by simp [afterFrames, hh], fun _ => hin, by simp [he], fun h => absurd he h,
      fun _ => ⟨_, exec_render_of_ready hin hh, by simp [afterFrames, hm]⟩,
      fun _ => ⟨es, e, by simp [afterFrames], hes, hf⟩, fun h => absurd rfl h⟩
  | init _ he =>
    obtain ⟨rfl, es, e, hes, hf, hend⟩ := endOf_of_error (u := s.setInited false) hr (fun _ => rfl) hw
    rw [hend]
    exact ⟨rfl, rfl, rfl, rfl, rfl, by simp [afterFrames, hh], fun h => absurd he h, fun _ => rfl, fun _ => rfl,
      by simp [he], fun _ => ⟨es, e, by simp [afterFrames], hes, hf⟩, fun h => absurd rfl h⟩

end Sys2Proof.Proofs
end
